-- ==== Sys2Proof/Word.lean ====
section
/-! DEFINITION. The value types of spec/00_scope.md R7 and R8: u8, u16 and byte sequences. -/

namespace Sys2Proof

/-- A u8 (R7). -/
abbrev Byte := BitVec 8

/-- A u16 (R7): an address word, a length, a message type, a word operand or result. -/
abbrev Word := BitVec 16

/-- A byte sequence (R8): a finite list of u8, offset 0 first. -/
abbrev Bytes := List Byte

end Sys2Proof
end

