-- ==== Sys2Proof/Config.lean ====
section
/-! DEFINITION. The fixed constants of the hardware: spec/10_state.md R25 and spec/00_scope.md R6.
They are no registers and nothing writes them (R25). The open parameters of R6 do not stand here: no rule depends on
LATENCY and PHYS_IF (log entries 11 and 12), and N_INST is an argument of Machine/Instances.lean (log entry 13). -/

namespace Sys2Proof.Config

/-- `MT_OPEN`: the session-open message type (R25). -/
def mtOpen : Word := 0x0026#16

/-- `MT_GROUP`: the group-packet message type (R25). -/
def mtGroup : Word := 0x0027#16

/-- `WRITE_FLAG`: the class bits of an outbound write (R25). -/
def writeFlag : Byte := 0x80#8

/-- `READ_CMD`: the command byte of an outbound read (R25). -/
def readCmd : Byte := 0x00#8

/-- `CLASS_READ`: bits 7:6 of the command byte of a read (R25, R70). -/
def classRead : BitVec 2 := 0b00#2

/-- `SHORT_MASK`: the low six bits of a command byte (R25). -/
def shortMask : Byte := 0x3F#8

/-- `BODY_MIN`: the least body of an outbound frame, in bytes (R25, R66). -/
def bodyMin : Nat := 2

/-- `BODY_MAX`: the greatest body of an outbound frame, in bytes (R25, R66). -/
def bodyMax : Nat := 65535

/-- `MIN_EMIT`: the least length of a frame that yields a telegram (R25, decision D10). -/
def minEmit : Nat := 10

/-- `FBD_CAP`: the most bytes the detector's buffer ever holds, within one FBD_PUSH (R6, R27, decision D15). -/
def fbdCap : Nat := 65537

end Sys2Proof.Config
end

