-- ==== Sys2Proof/Syntax.lean ====
section
/-! DEFINITION. The commands: the command record as the host issues it (spec/30_encoding.md R80, R87) and the
instruction it stands for, one constructor for each row of spec/opcode_table.json (R81). -/

namespace Sys2Proof

/-- The width selector `w` of a FRAME_PACK field entry: 0 is `u8`, 1 is `u16`; no third width exists (R87). -/
inductive FieldWidth where
  | u8
  | u16
deriving DecidableEq, Repr

/-- A FRAME_PACK field entry `(w, val)` (R87). -/
structure FieldEntry where
  w : FieldWidth
  val : Word
deriving DecidableEq, Repr

/-- The command record (R80): every slot, whether or not the command's format reads it. -/
structure CommandRecord where
  op : Byte
  a : Word
  b : Word
  c : Word
  d : Byte
  seq : Bytes
  flist : List FieldEntry
deriving DecidableEq, Repr

/-- The command formats (R80): which slots a command reads. -/
inductive Format where
  /-- reads no slot -/
  | n
  /-- reads `a` -/
  | a
  /-- reads `a`, `b`, `c` -/
  | aaa
  /-- reads `a`, `d` -/
  | ad
  /-- reads `a`, `flist` -/
  | af
  /-- reads `seq` -/
  | s
  /-- reads `d` -/
  | d
deriving DecidableEq, Repr

/-- The four units of the block (spec/00_scope.md R2). -/
inductive BlockUnit where
  | adu
  | fpk
  | fdc
  | fbd
deriving DecidableEq, Repr

/-- The mnemonics of the opcode map (R81), in the table's order. -/
inductive Mnemonic where
  | gaPack
  | gaUnpack
  | iaUnpack
  | framePack
  | mkOpen
  | mkWrite
  | mkRead
  | frameDecode
  | fbdPush
  | fbdClear
deriving DecidableEq, Repr

/-- The commands with the operands their formats read (R80, R81). -/
inductive Instr where
  /-- `GA_PACK main, middle, sub` (spec/40_address.md R100) -/
  | gaPack (a b c : Word)
  /-- `GA_UNPACK word` (R102) -/
  | gaUnpack (a : Word)
  /-- `IA_UNPACK word` (R106) -/
  | iaUnpack (a : Word)
  /-- `FRAME_PACK mtype, fields...` (spec/41_frame_encode.md R120) -/
  | framePack (a : Word) (flist : List FieldEntry)
  /-- `MK_OPEN` (R123) -/
  | mkOpen
  /-- `MK_WRITE word, value` (R124) -/
  | mkWrite (a : Word) (d : Byte)
  /-- `MK_READ word` (R125) -/
  | mkRead (a : Word)
  /-- `FRAME_DECODE bytes` (spec/42_frame_decode.md R144) -/
  | frameDecode (seq : Bytes)
  /-- `FBD_PUSH byte` (R145) -/
  | fbdPush (d : Byte)
  /-- `FBD_CLEAR` (R146) -/
  | fbdClear
deriving DecidableEq, Repr

end Sys2Proof
end

