-- ==== Sys2Proof/Machine/Operands.lean ====
section
/-! DEFINITION. How values lie in words and byte sequences: byte order (spec/20_memory.md R40, R41; spec/00_scope.md R8),
the address words (spec/30_encoding.md R60, R61, R63), the frame layout (R64, R65) and the serialization of FRAME_PACK
fields (spec/41_frame_encode.md R121). -/

namespace Sys2Proof.Machine

/-- `be16(h, l)`: the big-endian u16 of two bytes (R8, R40). -/
def be16 (h l : Byte) : Word := h ++ l

/-- `bytes16(v) = [v[15:8], v[7:0]]` (R8, R40). -/
def bytes16 (v : Word) : Bytes := [v.extractLsb' 8 8, v.extractLsb' 0 8]

/-- The byte `s[i]` (R8). Every use in the model stands under a test that the sequence is longer than `i`, so that the
value given for an offset past the end is never used (log entry 10; `byteAt_eq_getElem` in Laws/Operands.lean). -/
def byteAt (s : Bytes) (i : Nat) : Byte := s.getD i 0#8

/-- The u16 field at offset `i`, odd or even (R41, R42). -/
def wordAt (s : Bytes) (i : Nat) : Word := be16 (byteAt s i) (byteAt s (i + 1))

/-! Address words -/

/-- The group address word of operand values of any size: masked to 5, 3 and 8 bits, never range-checked (R63). -/
def groupWordNat (m mi s : Nat) : Nat :=
  ((m &&& 0x1F) <<< 11) ||| ((mi &&& 0x07) <<< 8) ||| (s &&& 0xFF)

/-- R63 on u16 operands. -/
def groupWord (a b c : Word) : Word := BitVec.ofNat 16 (groupWordNat a.toNat b.toNat c.toNat)

/-- `main = (v >> 11) & 0x1F` (R60, R102). -/
def groupMain (v : Word) : Word := (v >>> 11) &&& 0x1F#16

/-- `middle = (v >> 8) & 0x07` (R60, R102). -/
def groupMiddle (v : Word) : Word := (v >>> 8) &&& 0x07#16

/-- `sub = v & 0xFF` (R60, R102). -/
def groupSub (v : Word) : Word := v &&& 0xFF#16

/-- `area = (v >> 12) & 0x1F`: shift 12, not 11, as R61 insists (R106). -/
def indivArea (v : Word) : Word := (v >>> 12) &&& 0x1F#16

/-- `line = (v >> 8) & 0x07`; bit 11 is read by no field (R61, R106). -/
def indivLine (v : Word) : Word := (v >>> 8) &&& 0x07#16

/-- `device = v & 0xFF` (R61, R106). -/
def indivDevice (v : Word) : Word := v &&& 0xFF#16

/-! Frames -/

/-- The length field `L` of a frame (R64). -/
def declaredLen (f : Bytes) : Word := wordAt f 0

/-- A complete frame: its length prefix is there and `len(f) = L + 2` (R65; the domain of R140, the test of R144). -/
abbrev isFrame (f : Bytes) : Prop := 2 ≤ f.length ∧ f.length = (declaredLen f).toNat + 2

/-- A proper prefix of a frame: the length prefix is not complete, or the body is not (R149). -/
abbrev isFramePrefix (p : Bytes) : Prop := p.length < 2 ∨ p.length < (declaredLen p).toNat + 2

/-- The class of a command byte: bits 7:6 (R70). -/
def cmdClass (cmd : Byte) : BitVec 2 := cmd.extractLsb' 6 2

/-! FRAME_PACK fields -/

/-- A u8 entry requires `val[15:8] = 0`; a u16 entry requires nothing (R87). -/
def entryFits (e : FieldEntry) : Bool :=
  match e.w with
  | .u8 => e.val.extractLsb' 8 8 == 0#8
  | .u16 => true

/-- The bytes of one entry (R120, R121). -/
def entryBytes (e : FieldEntry) : Bytes :=
  match e.w with
  | .u8 => [e.val.extractLsb' 0 8]
  | .u16 => bytes16 e.val

/-- The bytes of the fields: list order, no padding, alignment or separator (R121). -/
def fieldBytes (fl : List FieldEntry) : Bytes := fl.flatMap entryBytes

/-- The body: message type, then the fields (R120, R122). -/
def frameBody (mtype : Word) (fl : List FieldEntry) : Bytes := bytes16 mtype ++ fieldBytes fl

end Sys2Proof.Machine
end

