-- ==== Sys2Proof/WellFormed.lean ====
section
/-! DEFINITION. Well-formed commands: the operands the spec calls for. Every slot value is encodable and every command
has a meaning on every operand; an ill-formed one is answered with an error status (spec/60_exceptions.md R170). -/

namespace Sys2Proof

/-- FRAME_PACK's operands: every entry fits its width (R87) and the body lies in [2, 65535] (R122). -/
def framePackWf (a : Word) (fl : List FieldEntry) : Bool :=
  fl.all Machine.entryFits &&
    (Config.bodyMin ≤ (Machine.frameBody a fl).length && (Machine.frameBody a fl).length ≤ Config.bodyMax)

/-- The operand checks, one for each command that has any: R120 and R122, R124 (`d` is 0 or 1), R144 (`seq` is exactly
one frame). -/
def Instr.wf : Instr → Bool
  | .gaPack _ _ _ => true
  | .gaUnpack _ => true
  | .iaUnpack _ => true
  | .framePack a fl => framePackWf a fl
  | .mkOpen => true
  | .mkWrite _ d => d ≤ 1#8
  | .mkRead _ => true
  | .frameDecode seq => decide (Machine.isFrame seq)
  | .fbdPush _ => true
  | .fbdClear => true

end Sys2Proof
end

