-- ==== Sys2Proof/Decode.lean ====
section
/-! DEFINITION. The opcode map (spec/30_encoding.md R81), decoding of command records and the encoder. -/

namespace Sys2Proof

/-- Why a record is no command: its opcode is not in the map (R82). -/
inductive DecodeError where
  | illegalOp (op : Byte)
deriving DecidableEq, Repr

/-- The `op` column of the opcode map (R81). -/
def opcodeByte : Mnemonic → Byte
  | .gaPack => 0x01#8
  | .gaUnpack => 0x02#8
  | .iaUnpack => 0x03#8
  | .framePack => 0x10#8
  | .mkOpen => 0x11#8
  | .mkWrite => 0x12#8
  | .mkRead => 0x13#8
  | .frameDecode => 0x20#8
  | .fbdPush => 0x30#8
  | .fbdClear => 0x31#8

/-- The `format` column (R81). -/
def formatOf : Mnemonic → Format
  | .gaPack => .aaa
  | .gaUnpack => .a
  | .iaUnpack => .a
  | .framePack => .af
  | .mkOpen => .n
  | .mkWrite => .ad
  | .mkRead => .a
  | .frameDecode => .s
  | .fbdPush => .d
  | .fbdClear => .n

/-- The `unit` column (R81, R2). -/
def unitOf : Mnemonic → BlockUnit
  | .gaPack => .adu
  | .gaUnpack => .adu
  | .iaUnpack => .adu
  | .framePack => .fpk
  | .mkOpen => .fpk
  | .mkWrite => .fpk
  | .mkRead => .fpk
  | .frameDecode => .fdc
  | .fbdPush => .fbd
  | .fbdClear => .fbd

/-- The rows of the map, in its order (R81). -/
def allMnemonics : List Mnemonic :=
  [.gaPack, .gaUnpack, .iaUnpack, .framePack, .mkOpen, .mkWrite, .mkRead, .frameDecode, .fbdPush, .fbdClear]

/-- The row an opcode byte selects: the whole byte is compared (mask 0xFF, R81). -/
def mnemonicOf (op : Byte) : Option Mnemonic := allMnemonics.find? fun m => opcodeByte m == op

/-- The row of the map an instruction belongs to. -/
def mnemonicOfInstr : Instr → Mnemonic
  | .gaPack _ _ _ => .gaPack
  | .gaUnpack _ => .gaUnpack
  | .iaUnpack _ => .iaUnpack
  | .framePack _ _ => .framePack
  | .mkOpen => .mkOpen
  | .mkWrite _ _ => .mkWrite
  | .mkRead _ => .mkRead
  | .frameDecode _ => .frameDecode
  | .fbdPush _ => .fbdPush
  | .fbdClear => .fbdClear

/-- The instruction of a row, its operands taken from the slots the row's format reads (R80). -/
def instrOf (m : Mnemonic) (r : CommandRecord) : Instr :=
  match m with
  | .gaPack => .gaPack r.a r.b r.c
  | .gaUnpack => .gaUnpack r.a
  | .iaUnpack => .iaUnpack r.a
  | .framePack => .framePack r.a r.flist
  | .mkOpen => .mkOpen
  | .mkWrite => .mkWrite r.a r.d
  | .mkRead => .mkRead r.a
  | .frameDecode => .frameDecode r.seq
  | .fbdPush => .fbdPush r.d
  | .fbdClear => .fbdClear

/-- Decoding, total on every record: the opcode map, or the illegal opcode by name (R81, R82). -/
def decode (r : CommandRecord) : Except DecodeError Instr :=
  match mnemonicOf r.op with
  | some m => .ok (instrOf m r)
  | none => .error (.illegalOp r.op)

/-! The encoder -/

/-- The record with opcode `op` and every operand slot zero or empty. -/
def blankRecord (op : Byte) : CommandRecord :=
  { op := op, a := 0#16, b := 0#16, c := 0#16, d := 0#8, seq := [], flist := [] }

/-- The record of a command (R80, R81). The slots its format does not read are left zero or empty; they may hold
anything (R80; log entry 15). -/
def encode : Instr → CommandRecord
  | .gaPack a b c => { blankRecord (opcodeByte .gaPack) with a := a, b := b, c := c }
  | .gaUnpack a => { blankRecord (opcodeByte .gaUnpack) with a := a }
  | .iaUnpack a => { blankRecord (opcodeByte .iaUnpack) with a := a }
  | .framePack a fl => { blankRecord (opcodeByte .framePack) with a := a, flist := fl }
  | .mkOpen => blankRecord (opcodeByte .mkOpen)
  | .mkWrite a d => { blankRecord (opcodeByte .mkWrite) with a := a, d := d }
  | .mkRead a => { blankRecord (opcodeByte .mkRead) with a := a }
  | .frameDecode seq => { blankRecord (opcodeByte .frameDecode) with seq := seq }
  | .fbdPush d => { blankRecord (opcodeByte .fbdPush) with d := d }
  | .fbdClear => blankRecord (opcodeByte .fbdClear)

/-- The record with every slot outside the format cleared: what a command of that format reads of it, beside its
opcode (R80). -/
def readSlots (fmt : Format) (r : CommandRecord) : CommandRecord :=
  match fmt with
  | .n => blankRecord r.op
  | .a => { blankRecord r.op with a := r.a }
  | .aaa => { blankRecord r.op with a := r.a, b := r.b, c := r.c }
  | .ad => { blankRecord r.op with a := r.a, d := r.d }
  | .af => { blankRecord r.op with a := r.a, flist := r.flist }
  | .s => { blankRecord r.op with seq := r.seq }
  | .d => { blankRecord r.op with d := r.d }

/-! The host's view of the opcode table -/

/-- The record whose opcode is the table word `w` of `nbits` bits and whose operand slots are all zero or empty: the table
gives the opcode byte alone (spec/opcode_table.json), and how the slots are carried is open (PHYS_IF, R80; log entry 11). -/
def tableRecord (nbits w : Nat) : CommandRecord := blankRecord (BitVec.ofNat 8 (w % 2 ^ nbits))

/-- The instruction the decoder reads from a table word. -/
def decodeTableWord (nbits w : Nat) : Option Instr :=
  match decode (tableRecord nbits w) with
  | .ok i => some i
  | .error _ => none

end Sys2Proof
end

