-- ==== Sys2Proof/Machine/State.lean ====
section
/-! DEFINITION. The state of one KNXAFC instance (spec/10_state.md R20, R26, R29), the response record
(spec/30_encoding.md R83, R84, R86), what the host puts in, and why a step or a read can stop. Plain data. -/

namespace Sys2Proof.Machine

/-! Indications -/

/-- The status codes (spec/60_exceptions.md R170). The reserved codes 0x6 to 0xE are never returned (I5), so no
constructor stands for them. -/
inductive Status where
  /-- 0x0 -/
  | ok
  /-- 0x1, `ERR_INVALID_ADDRESS`: the host's text parse only, never a block response -/
  | errInvalidAddress
  /-- 0x2, `ERR_PAYLOAD_TOO_SMALL`: FRAME_PACK, never reached (R122) -/
  | errPayloadTooSmall
  /-- 0x3, `ERR_PAYLOAD_TOO_LARGE`: FRAME_PACK -/
  | errPayloadTooLarge
  /-- 0x4, `ERR_FIELD_RANGE`: FRAME_PACK, MK_WRITE -/
  | errFieldRange
  /-- 0x5, `ERR_FRAME_LENGTH`: FRAME_DECODE -/
  | errFrameLength
  /-- 0xF, `ERR_ILLEGAL_OP` -/
  | errIllegalOp
deriving DecidableEq, Repr

/-- The decode outcomes (R86); code 3 is reserved and never produced (I6), so no constructor stands for it. -/
inductive DecodeOutcome where
  /-- 0 -/
  | emit
  /-- 1 -/
  | discardShort
  /-- 2 -/
  | discardType
deriving DecidableEq, Repr

/-- A telegram's value: `vkind` with the one value slot that kind defines (R84, R85); kind 3 is never produced (I7). -/
inductive TelegramValue where
  /-- `vkind = 0` -/
  | read
  /-- `vkind = 1`, with `vshort` -/
  | short (v : BitVec 6)
  /-- `vkind = 2`, with `vraw` -/
  | raw (bytes : Bytes)
deriving DecidableEq, Repr

/-- The telegram record (R84). -/
structure Telegram where
  src : Word
  dst : Word
  area : BitVec 5
  line : BitVec 3
  device : BitVec 8
  main : BitVec 5
  middle : BitVec 3
  sub : BitVec 8
  value : TelegramValue
deriving DecidableEq, Repr

/-- The response record (R83). `none` is a slot the command did not define: it has no value, and reading it is a fault
(spec/10_state.md R21, I1). -/
structure Response where
  status : Status
  r0 : Option Word
  r1 : Option Word
  r2 : Option Word
  rseq : Option Bytes
  outcome : Option DecodeOutcome
  frameDone : Option Bool
  tgValid : Option Bool
  tg : Option Telegram
deriving DecidableEq, Repr

/-- The slots of the response record (R83). -/
inductive ResponseSlot where
  | status
  | r0
  | r1
  | r2
  | rseq
  | outcome
  | frameDone
  | tgValid
  | tg
deriving DecidableEq, Repr

/-! The frame-boundary detector -/

/-- The phase `fbd_st` (R26). -/
inductive FbdPhase where
  /-- `AWAIT_LEN`: the length prefix is not yet complete -/
  | awaitLen
  /-- `AWAIT_BODY`: the prefix is complete and the body is being collected -/
  | awaitBody
deriving DecidableEq, Repr

/-- The detector's state, the only state of the block (R20, R26). -/
structure Fbd where
  /-- `fbd_st` -/
  st : FbdPhase
  /-- `fbd_buf`: the bytes of the current, incomplete frame, in arrival order -/
  buf : Bytes
  /-- `fbd_len`: the declared length, meaningful only in `AWAIT_BODY` -/
  len : Word
deriving DecidableEq, Repr

/-- The detector's reset values (R29, R190), which FBD_CLEAR and every completed frame restore as well (R145, R146). -/
def Fbd.reset : Fbd := { st := .awaitLen, buf := [], len := 0#16 }

/-! The host's side -/

/-- What the outside world can do to the block (log entries 1, 5 and 6). -/
inductive HostInput where
  /-- the host issues a command record (R80) -/
  | command (c : CommandRecord)
  /-- reset is asserted (R190, R191); `cut` is the command in progress, if any: it has no response and is treated as
  never issued (R191, I18) -/
  | reset (cut : Option CommandRecord)
  /-- the host drives two commands at the same time, which it must not (spec/60_exceptions.md R181,
  spec/70_reset_and_hazards.md R200, I3) -/
  | overlap (c₁ c₂ : CommandRecord)
deriving DecidableEq, Repr

/-- One instance with its two ends of the host interface. `fbd` is the architectural state (R20); `inbox` and
`responses` are the model's own: what the host has issued and not yet had executed, oldest first, and what it has been
given, oldest first (R46; log entries 1 and 2). -/
structure State where
  fbd : Fbd
  inbox : List HostInput
  responses : List Response
deriving DecidableEq, Repr

/-- The machine right after reset: every element at the value R29 gives; nothing issued, nothing answered. -/
def State.reset : State := { fbd := Fbd.reset, inbox := [], responses := [] }

/-- Why the machine, or a read of a response, stops. An error of a command is no fault: it is a status in that
command's response (spec/60_exceptions.md R171, R174). -/
inductive Fault where
  /-- Raised by the step when the host drives two commands at the same time: spec/93_implementation_defined.md I3 has a
  model make it an error, never a value. Safe: the hardware's behaviour there is claimed to be nothing. -/
  | overlappingCommands
  /-- Raised by the host's read of a response slot that the executed command did not define (spec/10_state.md R21, I1);
  no step raises it. Safe: no value stands in for the missing one. -/
  | undefinedSlot (slot : ResponseSlot)
  /-- Raised by the host's read of a telegram's `vshort` when `vkind` is not SHORT (R84, I1); no step raises it. Safe. -/
  | undefinedShort
  /-- Raised by the host's read of a telegram's `vraw` when `vkind` is not RAW (R84, I1); no step raises it. Safe. -/
  | undefinedRaw
deriving DecidableEq, Repr

/-- Why an instruction has no meaning. -/
inductive Refusal where
  /-- An arm of `exec` that has no meaning yet; no arm of this model raises it. Safe: nothing is claimed of it. -/
  | notModelled (mnemonic : String)
deriving DecidableEq, Repr

end Sys2Proof.Machine
end

