-- ==== Sys2Proof/Machine/Flags.lean ====
section
/-! DEFINITION. The indications a response carries: the codes of status, outcome and value kind (spec/60_exceptions.md
R170, spec/30_encoding.md R84, R86, R87), which slots each kind of response defines (R83), and the host's read of a slot
(spec/10_state.md R21). -/

namespace Sys2Proof.Machine

/-! Codes -/

/-- The u4 code of a status (R170). -/
def statusCode : Status → BitVec 4
  | .ok => 0x0#4
  | .errInvalidAddress => 0x1#4
  | .errPayloadTooSmall => 0x2#4
  | .errPayloadTooLarge => 0x3#4
  | .errFieldRange => 0x4#4
  | .errFrameLength => 0x5#4
  | .errIllegalOp => 0xF#4

/-- The u2 code of an outcome (R86). -/
def outcomeCode : DecodeOutcome → BitVec 2
  | .emit => 0#2
  | .discardShort => 1#2
  | .discardType => 2#2

/-- The u2 `vkind` of a telegram (R84). -/
def vkindCode : TelegramValue → BitVec 2
  | .read => 0#2
  | .short _ => 1#2
  | .raw _ => 2#2

/-- The u1 width selector of a field entry (R87). -/
def widthCode : FieldWidth → BitVec 1
  | .u8 => 0#1
  | .u16 => 1#1

/-! The responses a command can give (R83) -/

/-- A response that defines `status` and nothing else: every error (R171), every illegal opcode (R82), FBD_CLEAR (R146). -/
def statusOnly (st : Status) : Response :=
  { status := st, r0 := none, r1 := none, r2 := none, rseq := none, outcome := none,
    frameDone := none, tgValid := none, tg := none }

/-- GA_PACK's response: `r0`. -/
def wordResponse (w : Word) : Response := { statusOnly .ok with r0 := some w }

/-- GA_UNPACK's and IA_UNPACK's response: `r0`, `r1`, `r2`. -/
def wordsResponse (w0 w1 w2 : Word) : Response :=
  { statusOnly .ok with r0 := some w0, r1 := some w1, r2 := some w2 }

/-- The frame packer's response: `rseq`. -/
def frameResponse (f : Bytes) : Response := { statusOnly .ok with rseq := some f }

/-- What decoding a complete frame gives: an outcome and, for EMIT, a telegram (R140). -/
inductive Decoded where
  | emit (t : Telegram)
  | discardShort
  | discardType
deriving DecidableEq, Repr

/-- The outcome of a decoding (R86). -/
def decodedOutcome : Decoded → DecodeOutcome
  | .emit _ => .emit
  | .discardShort => .discardShort
  | .discardType => .discardType

/-- The telegram of a decoding, for EMIT only (R140). -/
def decodedTelegram : Decoded → Option Telegram
  | .emit t => some t
  | .discardShort => none
  | .discardType => none

/-- FRAME_DECODE's response: `outcome`, `tg_valid`, and `tg` when `tg_valid = 1` (R144). -/
def decodeResponse (o : Decoded) : Response :=
  { statusOnly .ok with
    outcome := some (decodedOutcome o)
    tgValid := some (decodedTelegram o).isSome
    tg := decodedTelegram o }

/-- FBD_PUSH's response when its byte completes a frame: no reason for a discard (R145, R150). -/
def doneResponse (o : Decoded) : Response :=
  { statusOnly .ok with
    frameDone := some true
    tgValid := some (decodedTelegram o).isSome
    tg := decodedTelegram o }

/-- FBD_PUSH's response when its byte completes no frame (R145, steps 1 and 3). -/
def pendingResponse : Response := { statusOnly .ok with frameDone := some false, tgValid := some false }

/-! The host's read of a response -/

/-- The value of a response slot. -/
inductive SlotValue where
  | status (s : Status)
  | word (w : Word)
  | bytes (b : Bytes)
  | outcome (o : DecodeOutcome)
  | bit (b : Bool)
  | telegram (t : Telegram)
deriving DecidableEq, Repr

/-- A slot's value, or the fault R21 asks for where the command did not define the slot. -/
def slotOr (x : ResponseSlot) : Option SlotValue → Except Fault SlotValue
  | some v => .ok v
  | none => .error (.undefinedSlot x)

/-- The host's read of a response slot (R21, R83, I1). -/
def readSlot (r : Response) (x : ResponseSlot) : Except Fault SlotValue :=
  slotOr x (match x with
    | .status => some (.status r.status)
    | .r0 => r.r0.map .word
    | .r1 => r.r1.map .word
    | .r2 => r.r2.map .word
    | .rseq => r.rseq.map .bytes
    | .outcome => r.outcome.map .outcome
    | .frameDone => r.frameDone.map .bit
    | .tgValid => r.tgValid.map .bit
    | .tg => r.tg.map .telegram)

/-- The host's read of `vshort`, defined only when `vkind = SHORT` (R84). -/
def readShort (t : Telegram) : Except Fault (BitVec 6) :=
  match t.value with
  | .short v => .ok v
  | .read => .error .undefinedShort
  | .raw _ => .error .undefinedShort

/-- The host's read of `vraw`, defined only when `vkind = RAW` (R84). -/
def readRaw (t : Telegram) : Except Fault Bytes :=
  match t.value with
  | .raw b => .ok b
  | .read => .error .undefinedRaw
  | .short _ => .error .undefinedRaw

end Sys2Proof.Machine
end

