-- ==== Sys2Proof/Machine/Ops.lean ====
section
/-! DEFINITION. The shared operations of the machine: answering a command, ending one with an error status (the block's
whole exception mechanism: spec/60_exceptions.md R171, R174, R175), illegal opcodes, reset, and taking the next host
input. -/

namespace Sys2Proof.Machine

/-- What every operation and meaning here answers. -/
abbrev StepOutcome := Host.Outcome State Fault Refusal

/-- The state with a response given to the host (R83: exactly one for each command; R46: in order). -/
def State.respond (s : State) (r : Response) : State := { s with responses := s.responses ++ [r] }

/-- The state with another detector state (R26). -/
def State.setFbd (s : State) (f : Fbd) : State := { s with fbd := f }

/-- The state with another list of host inputs still to come. -/
def State.setInbox (s : State) (l : List HostInput) : State := { s with inbox := l }

/-- A command of the stateless units ends: it answers and changes nothing else (R20, R50). -/
def answer (r : Response) (s : State) : StepOutcome := .next (s.respond r)

/-- An error: the block's only exception. It writes `status` into the command's own response and nothing else: no state
changes, no other slot is defined, nothing is saved, masked or redirected, and the next command runs as normal (R171,
R173, R174, R175). -/
def raiseStatus (e : Status) (s : State) : StepOutcome := answer (statusOnly e) s

/-- A command of the detector ends: it answers and writes the new detector state, together (R45). -/
def answerWithFbd (f : Fbd) (r : Response) (s : State) : StepOutcome := .next ((s.setFbd f).respond r)

/-- An illegal opcode: `ERR_ILLEGAL_OP`, before any operand is looked at (R82, R172). -/
def takeIllegalOp (s : State) : StepOutcome := raiseStatus .errIllegalOp s

/-- Reset: the detector takes its reset values, a partial frame is dropped undecoded, nothing is answered, and a command
that the reset cut off is treated as never issued (R190, R191). What the host issues afterwards is kept, and so are the
responses it already has (log entry 5). -/
def takeReset (_cut : Option CommandRecord) (s : State) : StepOutcome := .next (s.setFbd Fbd.reset)

/-- Two commands at the same time: the fault I3 asks for (R181, R200). -/
def takeOverlap (_s : State) : StepOutcome := .fault .overlappingCommands

/-- No input: the block waits for the next command (R190; log entry 4). -/
def waitForCommand (s : State) : StepOutcome := .next s

/-! The host's side of the inbox -/

/-- The host issues a command after those it has issued already (R46). -/
def State.issue (s : State) (c : CommandRecord) : State := s.setInbox (s.inbox ++ [.command c])

/-- The state in which record `c` is the next input the step takes. -/
def State.putNext (s : State) (c : CommandRecord) : State := s.setInbox (.command c :: s.inbox)

end Sys2Proof.Machine
end

