-- ==== Sys2Proof/Machine/Address.lean ====
section
/-! DEFINITION. The address unit (ADU): spec/40_address.md. No ADU command reads or writes the detector (R20), and none
can fail: every operand value is legal. There is no individual-address pack (R108). -/

namespace Sys2Proof.Machine

/-- `GA_PACK main, middle, sub` (R100, R101). -/
def execGaPack (a b c : Word) (s : State) : StepOutcome := answer (wordResponse (groupWord a b c)) s

/-- `GA_UNPACK word` (R102, R105). -/
def execGaUnpack (a : Word) (s : State) : StepOutcome :=
  answer (wordsResponse (groupMain a) (groupMiddle a) (groupSub a)) s

/-- `IA_UNPACK word` (R106, R107). -/
def execIaUnpack (a : Word) (s : State) : StepOutcome :=
  answer (wordsResponse (indivArea a) (indivLine a) (indivDevice a)) s

end Sys2Proof.Machine
end

