-- ==== Sys2Proof/Machine/Decoder.lean ====
section
/-! DEFINITION. The frame decoder core (FDC): spec/42_frame_decode.md R140 to R144. A pure function of the frame; it holds
no state and reads none (R20, decision D26). -/

namespace Sys2Proof.Machine

/-- The value rule on the command byte `f[9]` (R143): class read first, whatever the length and the low six bits; then
a frame of exactly 10 bytes is SHORT; else RAW, the bytes after the command byte. -/
def telegramValue (f : Bytes) : TelegramValue :=
  if cmdClass (byteAt f 9) = Config.classRead then .read
  else if f.length = Config.minEmit then .short ((byteAt f 9 &&& Config.shortMask).setWidth 6)
  else .raw (f.drop 10)

/-- The telegram of a frame that passes R141: addresses at offsets 4 and 6 (R142), unpacked as the ADU unpacks them, and
the value. Offset 8 is not read (R140, decision D11). -/
def telegramOf (f : Bytes) : Telegram :=
  { src := wordAt f 4
    dst := wordAt f 6
    area := (indivArea (wordAt f 4)).setWidth 5
    line := (indivLine (wordAt f 4)).setWidth 3
    device := (indivDevice (wordAt f 4)).setWidth 8
    main := (groupMain (wordAt f 6)).setWidth 5
    middle := (groupMiddle (wordAt f 6)).setWidth 3
    sub := (groupSub (wordAt f 6)).setWidth 8
    value := telegramValue f }

/-- `Decode(f)` (R140), with the discard tests in the order of R141. The spec defines it on complete frames; the model's
function is total, and the commands apply it to complete frames only (log entry 9). -/
def decodeFrame (f : Bytes) : Decoded :=
  if f.length < 4 then .discardShort
  else if wordAt f 2 ≠ Config.mtGroup then .discardType
  else if f.length < Config.minEmit then .discardShort
  else .emit (telegramOf f)

/-- `FRAME_DECODE bytes` (R144): `seq` must be exactly one frame; a discard is not an error (R176). -/
def execFrameDecode (seq : Bytes) (s : State) : StepOutcome :=
  if isFrame seq then answer (decodeResponse (decodeFrame seq)) s
  else raiseStatus .errFrameLength s

end Sys2Proof.Machine
end

