-- ==== Sys2Proof/Machine/Detector.lean ====
section
/-! DEFINITION. The frame-boundary detector (FBD): spec/42_frame_decode.md R145 to R149, the block's only state. -/

namespace Sys2Proof.Machine

/-- `len'` of R145: the declared length, read when the second byte arrives. -/
def pushedLen (f : Fbd) (buf : Bytes) : Word := if buf.length = 2 then declaredLen buf else f.len

/-- `st'` of R145. -/
def pushedSt (f : Fbd) (buf : Bytes) : FbdPhase := if buf.length = 2 then .awaitBody else f.st

/-- The frame is complete (R145, step 4). -/
abbrev completes (f : Fbd) (buf : Bytes) : Prop :=
  pushedSt f buf = .awaitBody ∧ buf.length = (pushedLen f buf).toNat + 2

/-- One stream byte: the detector's next state and the response (R145). A completed frame is decoded and the detector is
back in its reset state; else the byte is kept. -/
def pushByte (f : Fbd) (d : Byte) : Fbd × Response :=
  let buf := f.buf ++ [d]
  if completes f buf then (Fbd.reset, doneResponse (decodeFrame buf))
  else ({ st := pushedSt f buf, buf := buf, len := pushedLen f buf }, pendingResponse)

/-- `FBD_PUSH byte` (R145): accepted in every state, never an error (R150). -/
def execFbdPush (d : Byte) (s : State) : StepOutcome :=
  answerWithFbd (pushByte s.fbd d).1 (pushByte s.fbd d).2 s

/-- `FBD_CLEAR` (R146): a partial frame is dropped undecoded; `frame_done` and `tg_valid` are not defined. -/
def execFbdClear (s : State) : StepOutcome := answerWithFbd Fbd.reset (statusOnly .ok) s

/-! Laws of the stream: the host's `feed` at the block (R147) -/

/-- The detector after a chunk and the responses of its pushes, in order (R147): one push for each byte. -/
def feedResponses (f : Fbd) : Bytes → Fbd × List Response
  | [] => (f, [])
  | b :: bs =>
    let p := pushByte f b
    let q := feedResponses p.1 bs
    (q.1, p.2 :: q.2)

/-- The telegrams of a list of responses, in order (R147). -/
def telegramsOf (rs : List Response) : List Telegram := rs.filterMap Response.tg

/-- `feed(chunk)`: the detector after the chunk and the telegrams it gave, in order (R147). -/
def feed (f : Fbd) (chunk : Bytes) : Fbd × List Telegram :=
  ((feedResponses f chunk).1, telegramsOf (feedResponses f chunk).2)

/-- `feed` on successive chunks, the telegram lists concatenated (R148). -/
def feedChunks (f : Fbd) : List Bytes → Fbd × List Telegram
  | [] => (f, [])
  | c :: cs =>
    let p := feed f c
    let q := feedChunks p.1 cs
    (q.1, p.2 ++ q.2)

/-- The detector holding exactly the bytes of a frame prefix (R149). -/
def fbdHolding (p : Bytes) : Fbd :=
  if p.length < 2 then { st := .awaitLen, buf := p, len := 0#16 }
  else { st := .awaitBody, buf := p, len := declaredLen p }

end Sys2Proof.Machine
end

