-- ==== Sys2Proof/Machine/Packer.lean ====
section
/-! DEFINITION. The frame packer (FPK): spec/41_frame_encode.md. No FPK command reads or writes the detector (R20). -/

namespace Sys2Proof.Machine

/-- A body with its length prefix (R64, R120). -/
def framed (body : Bytes) : Bytes := bytes16 (BitVec.ofNat 16 body.length) ++ body

/-- `FRAME_PACK mtype, fields...` (R120, R122). A field out of range is reported before the body's size, whatever its
place in the list (R172). The lower bound is tested although no body is that short (R122). -/
def execFramePack (a : Word) (flist : List FieldEntry) (s : State) : StepOutcome :=
  if flist.all entryFits = false then raiseStatus .errFieldRange s
  else if (frameBody a flist).length < Config.bodyMin then raiseStatus .errPayloadTooSmall s
  else if Config.bodyMax < (frameBody a flist).length then raiseStatus .errPayloadTooLarge s
  else answer (frameResponse (framed (frameBody a flist))) s

/-- `MK_OPEN`: the session-open frame, three zero bytes after the type (R69, R123; C4). -/
def execMkOpen (s : State) : StepOutcome :=
  answer (frameResponse ([0x00#8, 0x05#8] ++ bytes16 Config.mtOpen ++ [0x00#8, 0x00#8, 0x00#8])) s

/-- An outbound group packet: exactly 8 bytes, offset 6 zero, the command byte at offset 7 (R67). -/
def groupPacket (word : Word) (cmd : Byte) : Bytes :=
  [0x00#8, 0x06#8] ++ bytes16 Config.mtGroup ++ bytes16 word ++ [0x00#8, cmd]

/-- `MK_WRITE word, value`: a value above 1 is refused, not masked (R124, decision D8). -/
def execMkWrite (a : Word) (d : Byte) (s : State) : StepOutcome :=
  if 1#8 < d then raiseStatus .errFieldRange s
  else answer (frameResponse (groupPacket a (Config.writeFlag ||| d))) s

/-- `MK_READ word` (R125). The answer to the read comes on the inbound stream, not here (R199). -/
def execMkRead (a : Word) (s : State) : StepOutcome := answer (frameResponse (groupPacket a Config.readCmd)) s

end Sys2Proof.Machine
end

