-- ==== Sys2Proof/Machine/Dispatch.lean ====
section
/-! DEFINITION. One arm for each command of spec/opcode_table.json, in the table's order. -/

namespace Sys2Proof.Machine

def exec (i : Instr) (s : State) : Host.Outcome State Fault Refusal :=
  match i with
  | .gaPack a b c => Sys2Proof.Machine.execGaPack a b c s
  | .gaUnpack a => Sys2Proof.Machine.execGaUnpack a s
  | .iaUnpack a => Sys2Proof.Machine.execIaUnpack a s
  | .framePack a flist => Sys2Proof.Machine.execFramePack a flist s
  | .mkOpen => Sys2Proof.Machine.execMkOpen s
  | .mkWrite a d => Sys2Proof.Machine.execMkWrite a d s
  | .mkRead a => Sys2Proof.Machine.execMkRead a s
  | .frameDecode seq => Sys2Proof.Machine.execFrameDecode seq s
  | .fbdPush d => Sys2Proof.Machine.execFbdPush d s
  | .fbdClear => Sys2Proof.Machine.execFbdClear s

end Sys2Proof.Machine
end

