-- ==== Sys2Proof/Machine/Step.lean ====
section
/-! DEFINITION. One step of the block: the next input of the host is taken and carried out, atomically
(spec/20_memory.md R45, R46). There is no program counter and no fetch (spec/10_state.md R23). -/

namespace Sys2Proof.Machine

/-- A command record, already taken from the inbox: decoded and executed, or answered as an illegal opcode (R81, R82). -/
def runRecord (c : CommandRecord) (s : State) : Host.Outcome State Fault Refusal :=
  match decode c with
  | .ok i => exec i s
  | .error (.illegalOp _) => takeIllegalOp s

/-- One step: the oldest input, or a wait where there is none. -/
def step (s : State) : Host.Outcome State Fault Refusal :=
  match s.inbox with
  | [] => waitForCommand s
  | .command c :: rest => runRecord c (s.setInbox rest)
  | .reset cut :: rest => takeReset cut (s.setInbox rest)
  | .overlap _ _ :: rest => takeOverlap (s.setInbox rest)

/-- `s` with the command of a table word as the next input: the block fetches nothing, the host issues the command
(R23; log entry 3). -/
def State.withFetchWord (s : State) (nbits w : Nat) : State := s.putNext (tableRecord nbits w)

end Sys2Proof.Machine
end

