-- ==== Sys2Proof/Machine/HostText.lean ====
section
/-! DEFINITION. The host's textual notation of addresses and values (spec/30_encoding.md R85, R88, R89, R90): outside the
block, given because the spec's vectors are written in it. A text is its list of characters. -/

namespace Sys2Proof.Machine

/-- A text of the host. -/
abbrev Text := List Char

/-- A decimal digit's value; nothing else is a digit: no sign, space or prefix (R88). -/
def decDigit (ch : Char) : Option Nat :=
  if '0' ≤ ch ∧ ch ≤ '9' then some (ch.toNat - '0'.toNat) else none

/-- The natural a list of digits denotes, most significant first, leading zeros accepted; none where it is empty or holds
something that is no digit of the base (R88). -/
def digitsNat (base : Nat) (digit : Char → Option Nat) : Text → Option Nat
  | [] => none
  | t => t.foldlM (fun acc ch => (digit ch).map fun v => acc * base + v) 0

/-- `dec(n)`: no sign, no leading zeros, `"0"` for zero (R89). -/
def decText (n : Nat) : Text := Nat.toDigits 10 n

/-- Step 1 and 2 of R88: exactly three parts between `/`, each a natural of any size; else `InvalidAddress`. -/
def parseGroupText (t : Text) : Except Status (Nat × Nat × Nat) :=
  match (t.splitOn '/').map (digitsNat 10 decDigit) with
  | [some n0, some n1, some n2] => .ok (n0, n1, n2)
  | _ => .error .errInvalidAddress

/-- A group address as the host's caller gives it: its text, or the three-field struct, the fields being naturals of any
size (R88). -/
inductive GroupAddress where
  | text (t : Text)
  | fields (main middle sub : Nat)
deriving DecidableEq, Repr

/-- The naturals step 3 of R88 works on: a text is parsed, the fields of the struct go there directly. -/
def groupParts : GroupAddress → Except Status (Nat × Nat × Nat)
  | .text t => parseGroupText t
  | .fields main middle sub => .ok (main, middle, sub)

/-- Step 3 of R88: the word of a group address, out-of-range parts masked (R63). -/
def groupAddressWord (g : GroupAddress) : Except Status Word :=
  (groupParts g).map fun n => BitVec.ofNat 16 (groupWordNat n.1 n.2.1 n.2.2)

/-- Step 4 of R88: the GA_PACK the host issues for a group address, each part modulo 2^16. -/
def groupAddressPack (g : GroupAddress) : Except Status Instr :=
  (groupParts g).map fun n => .gaPack (BitVec.ofNat 16 n.1) (BitVec.ofNat 16 n.2.1) (BitVec.ofNat 16 n.2.2)

/-- The canonical group-address text (R89). -/
def printGroup (main middle sub : Nat) : Text := decText main ++ ['/'] ++ decText middle ++ ['/'] ++ decText sub

/-- The canonical individual-address text (R90); no rule parses it back. -/
def printIndividual (area line device : Nat) : Text :=
  decText area ++ ['.'] ++ decText line ++ ['.'] ++ decText device

/-- The host's value of a telegram (R85). -/
inductive HostValue where
  | int (n : Int)
  | bytes (b : Bytes)
deriving DecidableEq, Repr

/-- R85: READ is the integer -1, SHORT the integer `vshort`, RAW the byte sequence. -/
def hostValue : TelegramValue → HostValue
  | .read => .int (-1)
  | .short v => .int v.toNat
  | .raw b => .bytes b

/-- The source's telegram, made by the host from the block's (R84, R85, decision D14). -/
structure HostTelegram where
  src : Text
  dst : Text
  value : HostValue
deriving DecidableEq, Repr

/-- The texts and the value of a telegram (R84, R85, R89, R90). -/
def hostTelegram (t : Telegram) : HostTelegram :=
  { src := printIndividual t.area.toNat t.line.toNat t.device.toNat
    dst := printGroup t.main.toNat t.middle.toNat t.sub.toNat
    value := hostValue t.value }

end Sys2Proof.Machine
end

