-- ==== Sys2Proof/Machine/Assembler.lean ====
section
/-! DEFINITION. The command syntax (spec/30_encoding.md R91): one command a line, as the host reads it. Where R91 is silent
(blanks, letter case of hexadecimal digits, numbers too large for their slot, an absent operand of FRAME_DECODE) the
choice is log entry 14. -/

namespace Sys2Proof.Machine

/-- A line that is no command. -/
inductive AsmError where
  /-- the first word is no mnemonic of the opcode map -/
  | unknownMnemonic
  /-- the operands are not those of the command -/
  | badOperands
deriving DecidableEq, Repr

/-- The blanks of a line. -/
def isBlank (ch : Char) : Bool := ch == ' ' || ch == '\t'

/-- A text without the blanks at its two ends. -/
def trimBlanks (t : Text) : Text := ((t.dropWhile isBlank).reverse.dropWhile isBlank).reverse

/-- The words of a text, between blanks. -/
def blankWords (t : Text) : List Text := (t.splitOnP isBlank).filter fun w => !w.isEmpty

/-- A hexadecimal digit's value, in either letter case. -/
def hexDigit (ch : Char) : Option Nat :=
  if 'a' ≤ ch ∧ ch ≤ 'f' then some (ch.toNat - 'a'.toNat + 10)
  else if 'A' ≤ ch ∧ ch ≤ 'F' then some (ch.toNat - 'A'.toNat + 10)
  else decDigit ch

/-- A number: decimal, or hexadecimal with `0x` (R91). -/
def parseNumber : Text → Option Nat
  | '0' :: 'x' :: t => digitsNat 16 hexDigit t
  | t => digitsNat 10 decDigit t

/-- A number for a slot of `w` bits. -/
def parseSlot (w : Nat) (t : Text) : Option (BitVec w) :=
  match parseNumber t with
  | some n => if n < 2 ^ w then some (BitVec.ofNat w n) else none
  | none => none

/-- The text between double quotes. -/
def parseQuoted : Text → Option Text
  | '"' :: t => if t.getLast? = some '"' then some t.dropLast else none
  | _ => none

/-- A group-address operand: a number, or the address text in quotes, which stands for R88's word (R91). -/
def parseGroupOperand (t : Text) : Option Word :=
  match parseQuoted t with
  | some q => (groupAddressWord (.text q)).toOption
  | none => parseSlot 16 t

/-- A field entry: `u8 v` is `w = 0`, `u16 v` is `w = 1` (R91). `val` is a u16 in both (R87): the range check of a u8 entry
is FRAME_PACK's. -/
def parseEntry (t : Text) : Option FieldEntry :=
  match blankWords t with
  | [['u', '8'], v] => (parseSlot 16 v).map fun x => { w := .u8, val := x }
  | [['u', '1', '6'], v] => (parseSlot 16 v).map fun x => { w := .u16, val := x }
  | _ => none

/-- A byte of two hexadecimal digits. -/
def hexPair (h l : Char) : Option Byte :=
  match hexDigit h, hexDigit l with
  | some x, some y => some (BitVec.ofNat 8 (x * 16 + y))
  | _, _ => none

/-- A hex byte (R8). -/
def parseHexByte : Text → Option Byte
  | [h, l] => hexPair h l
  | _ => none

/-- The rest of `b'\x..'` after its opening quote (R8). -/
def parseEscapes : Text → Option Bytes
  | ['\''] => some []
  | '\\' :: 'x' :: h :: l :: t =>
    match hexPair h l, parseEscapes t with
    | some b, some bs => some (b :: bs)
    | _, _ => none
  | _ => none

/-- A byte sequence: `b'\x..'` or hex bytes (R8, R91). -/
def parseBytes : Text → Option Bytes
  | 'b' :: '\'' :: t => parseEscapes t
  | t => (blankWords t).mapM parseHexByte

/-- The mnemonic as R81 spells it. -/
def mnemonicText : Mnemonic → Text
  | .gaPack => ['G', 'A', '_', 'P', 'A', 'C', 'K']
  | .gaUnpack => ['G', 'A', '_', 'U', 'N', 'P', 'A', 'C', 'K']
  | .iaUnpack => ['I', 'A', '_', 'U', 'N', 'P', 'A', 'C', 'K']
  | .framePack => ['F', 'R', 'A', 'M', 'E', '_', 'P', 'A', 'C', 'K']
  | .mkOpen => ['M', 'K', '_', 'O', 'P', 'E', 'N']
  | .mkWrite => ['M', 'K', '_', 'W', 'R', 'I', 'T', 'E']
  | .mkRead => ['M', 'K', '_', 'R', 'E', 'A', 'D']
  | .frameDecode => ['F', 'R', 'A', 'M', 'E', '_', 'D', 'E', 'C', 'O', 'D', 'E']
  | .fbdPush => ['F', 'B', 'D', '_', 'P', 'U', 'S', 'H']
  | .fbdClear => ['F', 'B', 'D', '_', 'C', 'L', 'E', 'A', 'R']

/-- The row of the opcode map a word names. -/
def mnemonicNamed (t : Text) : Option Mnemonic := allMnemonics.find? fun m => mnemonicText m == t

/-- The operands of a line, between commas; none where there is nothing after the mnemonic. -/
def operandTexts (t : Text) : List Text := if t.isEmpty then [] else (t.splitOn ',').map trimBlanks

/-- The command a mnemonic and its operand text denote (R91). -/
def assembleOperands (m : Mnemonic) (rest : Text) : Option Instr :=
  match m, operandTexts rest with
  | .gaPack, [x, y, z] => do return .gaPack (← parseSlot 16 x) (← parseSlot 16 y) (← parseSlot 16 z)
  | .gaUnpack, [x] => do return .gaUnpack (← parseGroupOperand x)
  | .iaUnpack, [x] => do return .iaUnpack (← parseSlot 16 x)
  | .framePack, x :: xs => do return .framePack (← parseSlot 16 x) (← xs.mapM parseEntry)
  | .mkOpen, [] => some .mkOpen
  | .mkWrite, [x, y] => do return .mkWrite (← parseGroupOperand x) (← parseSlot 8 y)
  | .mkRead, [x] => do return .mkRead (← parseGroupOperand x)
  | .frameDecode, _ => do return .frameDecode (← parseBytes rest)
  | .fbdPush, [x] => do return .fbdPush (← parseSlot 8 x)
  | .fbdClear, [] => some .fbdClear
  | _, _ => none

/-- A line without its comment, which starts with `;` (R91). -/
def codeOf (line : Text) : Text := trimBlanks (line.takeWhile fun ch => ch != ';')

/-- A line of the command syntax (R91): a command, nothing (a blank or comment line), or an error. -/
def assemble (line : Text) : Except AsmError (Option Instr) :=
  let (word, rest) := (codeOf line).span fun ch => !isBlank ch
  if word.isEmpty then .ok none
  else
    match mnemonicNamed word with
    | none => .error .unknownMnemonic
    | some m =>
      match assembleOperands m (trimBlanks rest) with
      | some i => .ok (some i)
      | none => .error .badOperands

/-! What a writer of lines may write, said without the parser -/

/-- `t` writes the natural `n` in a base, in digits of either letter case, leading zeros or not (R91; log entry 14). -/
def spellsDigits (base : Nat) (t : Text) (n : Nat) : Prop :=
  ∃ ds : List Nat, ds ≠ [] ∧ n = ds.foldl (fun acc d => acc * base + d) 0 ∧
    List.Forall₂ (fun ch d => d < base ∧ (ch = d.digitChar ∨ ch = d.digitChar.toUpper)) t ds

/-- `t` is the number `n`: decimal, or hexadecimal with `0x` (R91). -/
def spellsNumber (t : Text) (n : Nat) : Prop :=
  spellsDigits 10 t n ∨ ∃ h : Text, t = ['0', 'x'] ++ h ∧ spellsDigits 16 h n

/-- `t` is the group-address operand `w`: a number, or in quotes a text for which R88 gives `w` (R91). -/
def spellsGroupOperand (t : Text) (w : Word) : Prop :=
  spellsNumber t w.toNat ∨ ∃ q : Text, t = ['"'] ++ q ++ ['"'] ∧ groupAddressWord (.text q) = .ok w

/-- `t` is the field entry `e`: `u8 v` or `u16 v` (R91). -/
def spellsEntry (t : Text) (e : FieldEntry) : Prop :=
  ∃ v : Text, spellsNumber v e.val.toNat ∧
    t = (match e.w with | .u8 => ['u', '8'] | .u16 => ['u', '1', '6']) ++ [' '] ++ v

/-- `t` is the byte `b` in two hexadecimal digits (R8; log entry 14). -/
def spellsHexByte (t : Text) (b : Byte) : Prop := t.length = 2 ∧ spellsDigits 16 t b.toNat

end Sys2Proof.Machine
end

