-- ==== Sys2Proof/Machine/HostOps.lean ====
section
/-! DEFINITION. The host's pseudo-operations at the block boundary (spec/30_encoding.md R92): which commands each of them
issues, and where the transport comes in. The transport itself is outside the block (spec/00_scope.md R4). -/

namespace Sys2Proof.Machine

/-- One action of the host. -/
inductive HostAction where
  /-- open the transport -/
  | openTransport
  /-- issue a command to the block -/
  | issue (c : CommandRecord)
  /-- `send(rsp.rseq)`: transmit the frame of the command issued last -/
  | sendFrame
  /-- release the transport -/
  | closeTransport
deriving DecidableEq, Repr

/-- A value the host's caller hands to `write`: of any kind, of which `coerce` tells apart only what it must. -/
inductive WriteValue where
  /-- a truth value -/
  | bool (b : Bool)
  /-- a number -/
  | number (q : Rat)
  /-- any value that is neither: a text, a byte sequence, a record -/
  | other
deriving DecidableEq, Repr

/-- `coerce`: false or zero gives 0, any other value 1 (R92, decision D30; log entry 17). -/
def coerce : WriteValue → Byte
  | .bool b => if b then 1#8 else 0#8
  | .number q => if q = 0 then 0#8 else 1#8
  | .other => 1#8

/-- How `write` gets its word: R92 allows GA_PACK or R88. The model settles neither: the way is an argument (log entry 18). -/
inductive WordWay where
  /-- issue GA_PACK on the block -/
  | byGaPack
  /-- rule R88 at the host, no command -/
  | byHost
deriving DecidableEq, Repr

/-- `connect(host, port)`: the session-open frame before any other traffic (R194), then a fresh detector (R193). -/
def connectActions : List HostAction :=
  [.openTransport, .issue (encode .mkOpen), .sendFrame, .issue (encode .fbdClear)]

/-- The commands issued for the word of an address, and the word. By GA_PACK it is the command's `r0`, which is R88's word
(R88, step 4). -/
def wordActions (way : WordWay) (address : GroupAddress) : Except Status (List HostAction × Word) := do
  let pack ← groupAddressPack address
  let word ← groupAddressWord address
  return (match way with
    | .byGaPack => [.issue (encode pack)]
    | .byHost => [], word)

/-- `write(address, value)`: the word, MK_WRITE, send (R92). The way is the caller's (log entry 18). An address R88
refuses issues nothing. -/
def writeActions (way : WordWay) (address : GroupAddress) (value : WriteValue) : Except Status (List HostAction) := do
  let (acts, word) ← wordActions way address
  return acts ++ [.issue (encode (.mkWrite word (coerce value))), .sendFrame]

/-- `readRequest(address)`: the word by GA_PACK, the one way R92 gives here, MK_READ, send. -/
def readRequestActions (address : GroupAddress) : Except Status (List HostAction) := do
  let (acts, word) ← wordActions .byGaPack address
  return acts ++ [.issue (encode (.mkRead word)), .sendFrame]

/-- The commands of `feed(chunk)`: one FBD_PUSH for each byte, in order (R92, R147). -/
def feedRecords (chunk : Bytes) : List CommandRecord := chunk.map fun b => encode (.fbdPush b)

/-- `feed(chunk)` (R92). -/
def feedActions (chunk : Bytes) : List HostAction := (feedRecords chunk).map .issue

/-- `monitor(receiver)` on the chunks the transport gives before it closes: feed each in turn (R92). Each telegram a
response carries goes to the receiver in order, which is `telegramsOf` of the responses. -/
def monitorActions (chunks : List Bytes) : List HostAction := chunks.flatMap feedActions

/-- `close()`: no block command (R92). -/
def closeActions : List HostAction := [.closeTransport]

/-- The commands among the host's actions. -/
def commandsOf (acts : List HostAction) : List CommandRecord :=
  acts.filterMap fun
    | .issue c => some c
    | .openTransport => none
    | .sendFrame => none
    | .closeTransport => none

/-- The host issues a list of commands, in order. -/
def State.issueAll (s : State) (cs : List CommandRecord) : State := s.setInbox (s.inbox ++ cs.map .command)

end Sys2Proof.Machine
end

