-- ==== Sys2Proof/Machine/Instances.lean ====
section
/-! DEFINITION. Several instances, one for each connection (spec/10_state.md R30, spec/60_exceptions.md R181). Their number
is the open parameter N_INST (spec/00_scope.md R6): an argument here. -/

namespace Sys2Proof.Machine

/-- `N_INST` instances right after reset. -/
def instancesReset (nInst : Nat) : List State := List.replicate nInst State.reset

/-- Instance `k` takes a step; a step that stops, or a number that names no instance, gives none (log entry 13). -/
def stepInstance (k : Nat) (l : List State) : Option (List State) :=
  match l[k]? with
  | none => none
  | some s =>
    match step s with
    | .next s' => some (l.set k s')
    | .fault _ => none
    | .refused _ => none

end Sys2Proof.Machine
end

