-- ==== Sys2Proof/Machine/Run.lean ====
section
/-! DEFINITION. A run: the commands the host issued, one after another (spec/20_memory.md R46). -/

namespace Sys2Proof.Machine

/-- `k` steps, stopping at the first fault or refusal. -/
def runSteps : Nat → State → StepOutcome
  | 0, s => .next s
  | k + 1, s =>
    match step s with
    | .next s' => runSteps k s'
    | .fault x => .fault x
    | .refused x => .refused x

end Sys2Proof.Machine
end

