-- ==== Sys2Proof/Safety.lean ====
section
/-! DEFINITION. What counts as a good state and a safe input, in the terms the statements use. -/

namespace Sys2Proof.Machine

/-- The invariants of the detector between commands (spec/10_state.md R27). -/
abbrev fbdInv (f : Fbd) : Prop :=
  (f.st = .awaitLen ↔ f.buf.length < 2) ∧
  (f.st = .awaitLen → f.len = 0#16) ∧
  (f.st = .awaitBody →
    f.len = declaredLen f.buf ∧ 2 ≤ f.buf.length ∧ f.buf.length < f.len.toNat + 2)

/-- The host's duty: never two commands at the same time (spec/60_exceptions.md R181, spec/70_reset_and_hazards.md R200). -/
def serialInput : HostInput → Bool
  | .command _ => true
  | .reset _ => true
  | .overlap _ _ => false

/-- Every input still to come keeps that duty. -/
abbrev serialInputs (s : State) : Prop := ∀ x ∈ s.inbox, serialInput x = true

/-- Whether a response defines a slot: the host's read of it answers a value. -/
def definesSlot (r : Response) (x : ResponseSlot) : Bool := (readSlot r x).isOk

/-- The slots each command defines when its status is OK (the "defined by" column of R83), but for `tg`, which goes
with `tg_valid = 1`. -/
def okSlots : Mnemonic → List ResponseSlot
  | .gaPack => [.status, .r0]
  | .gaUnpack => [.status, .r0, .r1, .r2]
  | .iaUnpack => [.status, .r0, .r1, .r2]
  | .framePack => [.status, .rseq]
  | .mkOpen => [.status, .rseq]
  | .mkWrite => [.status, .rseq]
  | .mkRead => [.status, .rseq]
  | .frameDecode => [.status, .outcome, .tgValid]
  | .fbdPush => [.status, .frameDone, .tgValid]
  | .fbdClear => [.status]

end Sys2Proof.Machine
end

