-- ==== Sys2Proof/Certificates/Slice0/Obligations.lean ====
section
/-! DEFINITION. The statements about KNXAFC, each from the numbered rules of spec/. `s` is any state, reachable or not;
where a statement needs the detector's invariant (spec/10_state.md R27) it says so. -/

open Sys2Proof Sys2Proof.Machine

/-! ## Records and the step -/

/-- R81: the ten rows of the opcode map, whatever stands in the record's slots. -/
def Obligations.OpcodeMapDecodesEveryRow : Prop :=
  ∀ (a b c : Word) (d : Byte) (seq : Bytes) (fl : List FieldEntry),
    decode ⟨0x01#8, a, b, c, d, seq, fl⟩ = .ok (.gaPack a b c) ∧
    decode ⟨0x02#8, a, b, c, d, seq, fl⟩ = .ok (.gaUnpack a) ∧
    decode ⟨0x03#8, a, b, c, d, seq, fl⟩ = .ok (.iaUnpack a) ∧
    decode ⟨0x10#8, a, b, c, d, seq, fl⟩ = .ok (.framePack a fl) ∧
    decode ⟨0x11#8, a, b, c, d, seq, fl⟩ = .ok .mkOpen ∧
    decode ⟨0x12#8, a, b, c, d, seq, fl⟩ = .ok (.mkWrite a d) ∧
    decode ⟨0x13#8, a, b, c, d, seq, fl⟩ = .ok (.mkRead a) ∧
    decode ⟨0x20#8, a, b, c, d, seq, fl⟩ = .ok (.frameDecode seq) ∧
    decode ⟨0x30#8, a, b, c, d, seq, fl⟩ = .ok (.fbdPush d) ∧
    decode ⟨0x31#8, a, b, c, d, seq, fl⟩ = .ok .fbdClear

/-- R80, R81: encoding and decoding agree on every command with every operand, and a record decodes to a command exactly
when what its format reads of the record is that command's encoding. -/
def Obligations.RecordsAndCommandsRoundTrip : Prop :=
  (∀ i : Instr, decode (encode i) = .ok i) ∧
  (∀ (r : CommandRecord) (i : Instr),
    decode r = .ok i ↔ readSlots (formatOf (mnemonicOfInstr i)) r = encode i)

/-- R80, R172: a slot outside the command's format has no effect on the step, and with an illegal opcode no slot has. -/
def Obligations.UnreadSlotsHaveNoEffect : Prop :=
  ∀ (s : State) (rest : List HostInput) (r r' : CommandRecord),
    r.op = r'.op →
    (∀ m, mnemonicOf r.op = some m → readSlots (formatOf m) r = readSlots (formatOf m) r') →
    step { s with inbox := .command r :: rest } = step { s with inbox := .command r' :: rest }

/-- R82: every opcode byte outside the ten is illegal: an `ERR_ILLEGAL_OP` response with no other slot defined, the
detector unchanged. 0x00, 0x04 (no individual-address pack, R108) and 0xFF are among them. -/
def Obligations.IllegalOpcodesAreAnsweredAndChangeNothing : Prop :=
  (∀ (s : State) (r : CommandRecord) (rest : List HostInput),
    s.inbox = .command r :: rest →
    r.op ∉ [0x01#8, 0x02#8, 0x03#8, 0x10#8, 0x11#8, 0x12#8, 0x13#8, 0x20#8, 0x30#8, 0x31#8] →
    decode r = .error (.illegalOp r.op) ∧
    step s = .next { s with inbox := rest, responses := s.responses ++ [statusOnly .errIllegalOp] }) ∧
  (∀ op ∈ [0x00#8, 0x04#8, 0xFF#8], mnemonicOf op = none)

/-- R46: the step takes the oldest record the host issued and is the meaning of the command it decodes to. -/
def Obligations.StepRunsTheDecodedCommand : Prop :=
  ∀ (s : State) (r : CommandRecord) (rest : List HostInput) (i : Instr),
    s.inbox = .command r :: rest → decode r = .ok i →
    step s = exec i { s with inbox := rest }

/-- The model's choice (log entry 4) from R190's "The block then waits for the first command": a step with nothing issued
changes nothing; so a partial frame stays pending (R198). -/
def Obligations.StepWaitsWhenNothingIsIssued : Prop :=
  ∀ s : State, s.inbox = [] → step s = .next s

/-- R190, R191 with the model's inbox (log entry 5): reset between commands gives the detector its reset values, answers
nothing, and a command it cut off has no effect and no response. -/
def Obligations.ResetInputRestoresTheDetector : Prop :=
  ∀ (s : State) (cut : Option CommandRecord) (rest : List HostInput),
    s.inbox = .reset cut :: rest →
    step s = .next { s with fbd := { st := .awaitLen, buf := [], len := 0#16 }, inbox := rest }

/-- R29: the reset values of the three state elements, after power-on reset and after FBD_CLEAR. -/
def Obligations.ResetValuesAsGiven : Prop :=
  State.reset.fbd = { st := .awaitLen, buf := [], len := 0#16 } ∧
  ∀ s : State, ∃ s', exec .fbdClear s = .next s' ∧
    s'.fbd = { st := .awaitLen, buf := [], len := 0#16 }

/-- I3 (R181, R200), as log entry 6 puts it into the inbox: two commands at the same time are a fault of the model. -/
def Obligations.OverlappingCommandsFault : Prop :=
  ∀ (s : State) (c₁ c₂ : CommandRecord) (rest : List HostInput),
    s.inbox = .overlap c₁ c₂ :: rest → step s = .fault .overlappingCommands

/-- R174, R180, R195, R200: a step never refuses, and faults only where the host drives two commands at once; while the
host keeps its duty the block goes on. -/
def Obligations.BlockNeverStopsOnSerialInputs : Prop :=
  ∀ s : State,
    (∀ r, step s ≠ .refused r) ∧
    (∀ x, step s = .fault x →
      x = .overlappingCommands ∧ ∃ c₁ c₂ rest, s.inbox = .overlap c₁ c₂ :: rest) ∧
    (serialInputs s → ∃ s', step s = .next s' ∧ serialInputs s')

/-- R27: every step keeps the detector's invariant; under it the buffer holds at most 65536 bytes between commands, and
within one FBD_PUSH at most `fbd_len + 2`, which is at most FBD_CAP. -/
def Obligations.EveryStepKeepsTheDetectorInvariant : Prop :=
  ∀ s : State, fbdInv s.fbd →
    (∀ s', step s = .next s' → fbdInv s'.fbd) ∧
    s.fbd.buf.length ≤ 65536 ∧
    (∀ d : Byte,
      (s.fbd.buf ++ [d]).length ≤ (pushedLen s.fbd (s.fbd.buf ++ [d])).toNat + 2 ∧
      (pushedLen s.fbd (s.fbd.buf ++ [d])).toNat + 2 ≤ Config.fbdCap)

/-- R27, R29: the invariant holds of the reset state. -/
def Obligations.ResetStateMeetsTheDetectorInvariant : Prop := fbdInv State.reset.fbd

/-- R24, R45, R83: every command, on all operands in every state, completes with exactly one response; the response and the
new detector state depend on the operands and the detector alone, not on earlier responses or on what is still to come. -/
def Obligations.OneResponseFromOperandsAndDetectorAlone : Prop :=
  ∀ (i : Instr) (s t : State), s.fbd = t.fbd →
    ∃ (f : Fbd) (r : Response),
      exec i s = .next { s with fbd := f, responses := s.responses ++ [r] } ∧
      exec i t = .next { t with fbd := f, responses := t.responses ++ [r] }

/-- R46: the records the host issued, legal or not, are carried out in issue order, one a step. `f k` is the detector before
record `k` and `r k` the answer to it: carrying out record `k` on the detector that record `k - 1` left gives `r k` and
leaves `f (k + 1)`. After `k` steps, for each `k` up to their number, the detector is `f k`, the first `k` answers have come
in that order, and the later records and inputs are as they were (log entries 1 and 2). -/
def Obligations.QueueOfCommandsIsAnsweredInOrder : Prop :=
  ∀ (cs : List CommandRecord) (s : State) (rest : List HostInput),
    s.inbox = cs.map .command ++ rest →
    ∃ (f : Nat → Fbd) (r : Nat → Response), f 0 = s.fbd ∧
      (∀ (k : Nat) (c : CommandRecord), cs[k]? = some c → ∀ t : State, t.fbd = f k →
        runRecord c t = .next { t with fbd := f (k + 1), responses := t.responses ++ [r k] }) ∧
      ∀ k ≤ cs.length, runSteps k s = .next
        { fbd := f k, inbox := (cs.drop k).map .command ++ rest, responses := s.responses ++ (List.range k).map r }

/-! ## Address unit -/

/-- R100: GA_PACK's encoding and result. The word is the concatenation of the low 5, 3 and 8 bits of the operands (R60,
R63), for all operands. -/
def Obligations.GaPackPacksTheMaskedFields : Prop :=
  (∀ r : CommandRecord, r.op = 0x01#8 → decode r = .ok (.gaPack r.a r.b r.c)) ∧
  ∀ (a b c : Word) (s : State),
    exec (.gaPack a b c) s = .next { s with
      responses := s.responses ++
        [wordResponse (a.extractLsb' 0 5 ++ b.extractLsb' 0 3 ++ c.extractLsb' 0 8 : BitVec (5 + 3 + 8))] }

/-- R101: masking the operands changes nothing, and only `a[4:0]`, `b[2:0]`, `c[7:0]` count. -/
def Obligations.GaPackMaskingLaw : Prop :=
  ∀ (a b c : Word) (s : State),
    exec (.gaPack a b c) s = exec (.gaPack (a &&& 0x1F#16) (b &&& 0x07#16) (c &&& 0xFF#16)) s ∧
    ∀ a' b' c' : Word,
      a.extractLsb' 0 5 = a'.extractLsb' 0 5 → b.extractLsb' 0 3 = b'.extractLsb' 0 3 →
      c.extractLsb' 0 8 = c'.extractLsb' 0 8 → exec (.gaPack a b c) s = exec (.gaPack a' b' c') s

/-- R102: GA_UNPACK's encoding and result: `a[15:11]`, `a[10:8]`, `a[7:0]`, zero-extended. -/
def Obligations.GaUnpackGivesTheThreeFields : Prop :=
  (∀ r : CommandRecord, r.op = 0x02#8 → decode r = .ok (.gaUnpack r.a)) ∧
  ∀ (a : Word) (s : State),
    exec (.gaUnpack a) s = .next { s with
      responses := s.responses ++
        [wordsResponse ((a.extractLsb' 11 5).setWidth 16) ((a.extractLsb' 8 3).setWidth 16)
          ((a.extractLsb' 0 8).setWidth 16)] }

/-- R103: unpack then pack is the identity on words; pack then unpack gives the masked fields, and so the fields
themselves where they are in range. -/
def Obligations.GroupAddressRoundTrips : Prop :=
  (∀ (w : Word) (s : State), ∃ m mi su : Word,
    exec (.gaUnpack w) s = .next { s with responses := s.responses ++ [wordsResponse m mi su] } ∧
    exec (.gaPack m mi su) s = .next { s with responses := s.responses ++ [wordResponse w] }) ∧
  (∀ (a b c : Word) (s : State), ∃ w : Word,
    exec (.gaPack a b c) s = .next { s with responses := s.responses ++ [wordResponse w] } ∧
    exec (.gaUnpack w) s = .next { s with
      responses := s.responses ++ [wordsResponse (a &&& 0x1F#16) (b &&& 0x07#16) (c &&& 0xFF#16)] } ∧
    (a.toNat ≤ 31 → b.toNat ≤ 7 → c.toNat ≤ 255 →
      exec (.gaUnpack w) s = .next { s with responses := s.responses ++ [wordsResponse a b c] }))

/-- R105: GA_UNPACK never fails and its results lie in their fields' ranges. -/
def Obligations.GaUnpackIsTotalAndInRange : Prop :=
  ∀ (a : Word) (s : State), ∃ m mi su : Word,
    exec (.gaUnpack a) s = .next { s with responses := s.responses ++ [wordsResponse m mi su] } ∧
    m.toNat ≤ 31 ∧ mi.toNat ≤ 7 ∧ su.toNat ≤ 255

/-- R106: IA_UNPACK's encoding and result: `a[15:12]`, `a[10:8]`, `a[7:0]`. -/
def Obligations.IaUnpackGivesTheThreeFields : Prop :=
  (∀ r : CommandRecord, r.op = 0x03#8 → decode r = .ok (.iaUnpack r.a)) ∧
  ∀ (a : Word) (s : State),
    exec (.iaUnpack a) s = .next { s with
      responses := s.responses ++
        [wordsResponse ((a.extractLsb' 12 4).setWidth 16) ((a.extractLsb' 8 3).setWidth 16)
          ((a.extractLsb' 0 8).setWidth 16)] }

/-- R107: the area is at most 15, and two words give the same answer exactly when they are equal or differ in bit 11
alone, so that exactly two words share each triple. -/
def Obligations.IaUnpackLosesExactlyBitEleven : Prop :=
  (∀ (a : Word) (s : State), ∃ ar li de : Word,
    exec (.iaUnpack a) s = .next { s with responses := s.responses ++ [wordsResponse ar li de] } ∧
    ar = (a.extractLsb' 12 4).setWidth 16 ∧ ar.toNat ≤ 15) ∧
  (∀ (a a' : Word) (s : State),
    exec (.iaUnpack a) s = exec (.iaUnpack a') s ↔ a' = a ∨ a' = a ^^^ 0x0800#16)

/-! ## Frame packer -/

/-- R121: the fields serialize in list order, a u16 to its two bytes high first, a u8 that fits to its one byte. -/
def Obligations.FieldsSerializeInListOrder : Prop :=
  fieldBytes [] = [] ∧
  (∀ (v : Word) (fl : List FieldEntry),
    fieldBytes (⟨.u16, v⟩ :: fl) = v.extractLsb' 8 8 :: v.extractLsb' 0 8 :: fieldBytes fl) ∧
  (∀ (v : Word) (fl : List FieldEntry), v.toNat ≤ 0xFF →
    fieldBytes (⟨.u8, v⟩ :: fl) = BitVec.ofNat 8 v.toNat :: fieldBytes fl)

/-- R120, R172: FRAME_PACK's three outcomes; the clauses exclude each other. A u8 value above 0xFF anywhere is
`ERR_FIELD_RANGE`; else a body above 65535 bytes is `ERR_PAYLOAD_TOO_LARGE`; else the frame is the body's length, the
message type and the fields, big-endian. -/
def Obligations.FramePackBuildsTheFrame : Prop :=
  (∀ r : CommandRecord, r.op = 0x10#8 → decode r = .ok (.framePack r.a r.flist)) ∧
  ∀ (a : Word) (fl : List FieldEntry) (s : State),
    ((∃ e ∈ fl, e.w = .u8 ∧ 0xFF < e.val.toNat) →
      exec (.framePack a fl) s = .next { s with responses := s.responses ++ [statusOnly .errFieldRange] }) ∧
    ((∀ e ∈ fl, e.w = .u8 → e.val.toNat ≤ 0xFF) → 65535 < 2 + (fieldBytes fl).length →
      exec (.framePack a fl) s = .next { s with responses := s.responses ++ [statusOnly .errPayloadTooLarge] }) ∧
    ((∀ e ∈ fl, e.w = .u8 → e.val.toNat ≤ 0xFF) → 2 + (fieldBytes fl).length ≤ 65535 →
      exec (.framePack a fl) s = .next { s with
        responses := s.responses ++
          [frameResponse (bytes16 (BitVec.ofNat 16 (2 + (fieldBytes fl).length)) ++ bytes16 a ++ fieldBytes fl)] })

/-- R127: the length law of every frame FRAME_PACK gives; the detector, pushed its bytes from the reset state, completes
it exactly at its last byte. -/
def Obligations.FramePackLengthLaw : Prop :=
  ∀ (a : Word) (fl : List FieldEntry) (s : State) (f : Bytes),
    exec (.framePack a fl) s = .next { s with responses := s.responses ++ [frameResponse f] } →
    f.length = 4 + (fieldBytes fl).length ∧
    (∃ h : 3 < f.length, (be16 f[0] f[1]).toNat = f.length - 2 ∧ be16 f[2] f[3] = a) ∧
    isFrame f ∧
    feedResponses State.reset.fbd f =
      (State.reset.fbd, List.replicate (f.length - 1) pendingResponse ++ [doneResponse (decodeFrame f)])

/-- R123: MK_OPEN's encoding and its constant frame. -/
def Obligations.MkOpenGivesTheSessionOpenFrame : Prop :=
  (∀ r : CommandRecord, r.op = 0x11#8 → decode r = .ok .mkOpen) ∧
  ∀ s : State, exec .mkOpen s = .next { s with
    responses := s.responses ++
      [frameResponse [0x00#8, 0x05#8, 0x00#8, 0x26#8, 0x00#8, 0x00#8, 0x00#8]] }

/-- R124: MK_WRITE's encoding, its frame for a value 0 or 1, and `ERR_FIELD_RANGE` for a value above 1. -/
def Obligations.MkWriteGivesTheWriteFrame : Prop :=
  (∀ r : CommandRecord, r.op = 0x12#8 → decode r = .ok (.mkWrite r.a r.d)) ∧
  ∀ (a : Word) (d : Byte) (s : State),
    (d.toNat ≤ 1 → exec (.mkWrite a d) s = .next { s with
      responses := s.responses ++
        [frameResponse [0x00#8, 0x06#8, 0x00#8, 0x27#8, a.extractLsb' 8 8, a.extractLsb' 0 8, 0x00#8, 0x80#8 ||| d]] }) ∧
    (1 < d.toNat →
      exec (.mkWrite a d) s = .next { s with responses := s.responses ++ [statusOnly .errFieldRange] })

/-- R125: MK_READ's encoding and its frame, command byte 0x00, for every word. -/
def Obligations.MkReadGivesTheReadFrame : Prop :=
  (∀ r : CommandRecord, r.op = 0x13#8 → decode r = .ok (.mkRead r.a)) ∧
  ∀ (a : Word) (s : State), exec (.mkRead a) s = .next { s with
    responses := s.responses ++
      [frameResponse [0x00#8, 0x06#8, 0x00#8, 0x27#8, a.extractLsb' 8 8, a.extractLsb' 0 8, 0x00#8, 0x00#8]] }

/-- R126: the three fixed frames are FRAME_PACK's. -/
def Obligations.FixedFramesAreFramePackFrames : Prop :=
  ∀ s : State,
    exec .mkOpen s = exec (.framePack 0x26#16 [⟨.u16, 0#16⟩, ⟨.u8, 0#16⟩]) s ∧
    ∀ a : Word,
      (∀ d : Byte, d.toNat ≤ 1 →
        exec (.mkWrite a d) s =
          exec (.framePack 0x27#16 [⟨.u16, a⟩, ⟨.u8, 0#16⟩, ⟨.u8, (0x80#8 ||| d).setWidth 16⟩]) s) ∧
      exec (.mkRead a) s = exec (.framePack 0x27#16 [⟨.u16, a⟩, ⟨.u8, 0#16⟩, ⟨.u8, 0#16⟩]) s

/-! ## Frame decoder -/

/-- R144: FRAME_DECODE's encoding; on exactly one frame it answers OK with the outcome of `Decode`, `tg_valid` and, for
EMIT, the telegram; on anything else `ERR_FRAME_LENGTH`. The detector is not touched. -/
def Obligations.FrameDecodeAnswersOneFrame : Prop :=
  (∀ r : CommandRecord, r.op = 0x20#8 → decode r = .ok (.frameDecode r.seq)) ∧
  ∀ (f : Bytes) (s : State),
    ((∃ h : 1 < f.length, f.length = (be16 f[0] f[1]).toNat + 2) →
      (∀ t, decodeFrame f = .emit t → exec (.frameDecode f) s = .next { s with
        responses := s.responses ++
          [{ statusOnly .ok with outcome := some .emit, tgValid := some true, tg := some t }] }) ∧
      (decodeFrame f = .discardShort → exec (.frameDecode f) s = .next { s with
        responses := s.responses ++
          [{ statusOnly .ok with outcome := some .discardShort, tgValid := some false }] }) ∧
      (decodeFrame f = .discardType → exec (.frameDecode f) s = .next { s with
        responses := s.responses ++
          [{ statusOnly .ok with outcome := some .discardType, tgValid := some false }] })) ∧
    ((¬ ∃ h : 1 < f.length, f.length = (be16 f[0] f[1]).toNat + 2) →
      exec (.frameDecode f) s = .next { s with responses := s.responses ++ [statusOnly .errFrameLength] })

/-- R141: the discard conditions of a complete frame in their order, and a telegram where none holds. -/
def Obligations.DiscardsInTheirOrder : Prop :=
  ∀ f : Bytes, isFrame f →
    (f.length < 4 → decodeFrame f = .discardShort) ∧
    (∀ h : 3 < f.length, be16 f[2] f[3] ≠ 0x0027#16 → decodeFrame f = .discardType) ∧
    (∀ h : 3 < f.length, be16 f[2] f[3] = 0x0027#16 → f.length < 10 → decodeFrame f = .discardShort) ∧
    (∀ h : 3 < f.length, be16 f[2] f[3] = 0x0027#16 → 10 ≤ f.length → ∃ t, decodeFrame f = .emit t)

/-- R68, R140, R142, R143: an inbound group packet, byte by byte, and the telegram it gives. `fl` is the flags byte, which
counts for nothing; `data` are the bytes after the command byte. -/
def Obligations.GroupPacketDecodesToItsTelegram : Prop :=
  ∀ (l1 l0 s1 s0 d1 d0 fl cmd : Byte) (data : Bytes),
    isFrame ([l1, l0, 0x00#8, 0x27#8, s1, s0, d1, d0, fl, cmd] ++ data) →
    decodeFrame ([l1, l0, 0x00#8, 0x27#8, s1, s0, d1, d0, fl, cmd] ++ data) = .emit {
      src := s1 ++ s0
      dst := d1 ++ d0
      area := (s1.extractLsb' 4 4).setWidth 5
      line := s1.extractLsb' 0 3
      device := s0
      main := d1.extractLsb' 3 5
      middle := d1.extractLsb' 0 3
      sub := d0
      value :=
        if cmd.extractLsb' 6 2 = 0b00#2 then .read
        else if data = [] then .short (cmd.extractLsb' 0 6)
        else .raw data } ∧
    data.length ≤ 65527

/-- D11 (R140): the byte at offset 8 never affects a result. -/
def Obligations.FlagsByteIsNeverRead : Prop :=
  ∀ (f : Bytes) (x : Byte), decodeFrame (f.set 8 x) = decodeFrame f

/-! ## Frame-boundary detector -/

/-- R145: FBD_PUSH's encoding and its effect in every state. -/
def Obligations.FbdPushAppendsOrCompletes : Prop :=
  (∀ r : CommandRecord, r.op = 0x30#8 → decode r = .ok (.fbdPush r.d)) ∧
  ∀ (s : State) (d : Byte) (buf : Bytes) (len : Word) (st : FbdPhase),
    buf = s.fbd.buf ++ [d] →
    ((buf.length ≠ 2 ∧ len = s.fbd.len ∧ st = s.fbd.st) ∨
      (∃ h : buf.length = 2, len = be16 buf[0] buf[1] ∧ st = .awaitBody)) →
    ((st = .awaitBody ∧ buf.length = len.toNat + 2) →
      (∀ t, decodeFrame buf = .emit t → exec (.fbdPush d) s = .next { s with
        fbd := { st := .awaitLen, buf := [], len := 0#16 }
        responses := s.responses ++
          [{ statusOnly .ok with frameDone := some true, tgValid := some true, tg := some t }] }) ∧
      ((∀ t, decodeFrame buf ≠ .emit t) → exec (.fbdPush d) s = .next { s with
        fbd := { st := .awaitLen, buf := [], len := 0#16 }
        responses := s.responses ++
          [{ statusOnly .ok with frameDone := some true, tgValid := some false }] })) ∧
    (¬ (st = .awaitBody ∧ buf.length = len.toNat + 2) →
      exec (.fbdPush d) s = .next { s with
        fbd := { st := st, buf := buf, len := len }
        responses := s.responses ++
          [{ statusOnly .ok with frameDone := some false, tgValid := some false }] })

/-- R146: FBD_CLEAR's encoding and its effect in every state: no telegram, no `frame_done`, no `tg_valid`. -/
def Obligations.FbdClearDropsThePartialFrame : Prop :=
  (∀ r : CommandRecord, r.op = 0x31#8 → decode r = .ok .fbdClear) ∧
  ∀ s : State, exec .fbdClear s = .next { s with
    fbd := { st := .awaitLen, buf := [], len := 0#16 }
    responses := s.responses ++ [statusOnly .ok] }

/-- R192, with reset as the model's inbox gives it (log entry 5): reset and FBD_CLEAR leave the same state; only the command has a response, and that is OK. -/
def Obligations.ResetAndClearLeaveTheSameState : Prop :=
  ∀ (s : State) (cut : Option CommandRecord) (rest : List HostInput),
    ∃ s₁ s₂,
      step { s with inbox := .reset cut :: rest } = .next s₁ ∧
      step { s with inbox := .command (encode .fbdClear) :: rest } = .next s₂ ∧
      s₁.fbd = s₂.fbd ∧ s₁.fbd = State.reset.fbd ∧ s₁.inbox = s₂.inbox ∧
      s₁.responses = s.responses ∧ s₂.responses = s.responses ++ [statusOnly .ok]

/-- R147: `feed(chunk)` is one FBD_PUSH for each byte in order; running them gives the detector state and the telegrams,
in response order, that `feed` says. An empty chunk gives nothing. -/
def Obligations.PushesOfAChunkAreItsFeed : Prop :=
  ∀ (chunk : Bytes) (s : State) (rest : List HostInput),
    s.inbox = (feedRecords chunk).map .command ++ rest →
    ∃ rs : List Response,
      runSteps chunk.length s =
        .next { fbd := (feed s.fbd chunk).1, inbox := rest, responses := s.responses ++ rs } ∧
      rs.filterMap Response.tg = (feed s.fbd chunk).2

/-- R148: feeding the chunks of a stream in turn gives the telegrams and the state of feeding it at once. -/
def Obligations.ChunkingDoesNotMatter : Prop :=
  ∀ (f : Fbd) (chunks : List Bytes), feedChunks f chunks = feed f chunks.flatten

/-- R149: complete frames back to back, then a frame prefix, from the reset state: a frame is completed exactly at the
last byte of each, its response is that of decoding it, and the detector ends holding exactly the prefix. -/
def Obligations.BackToBackFramesAreDelimitedExactly : Prop :=
  ∀ (frames : List Bytes) (p : Bytes),
    (∀ f ∈ frames, isFrame f) → isFramePrefix p →
    feedResponses State.reset.fbd (frames.flatten ++ p) =
      (fbdHolding p,
        (frames.flatMap fun f =>
          List.replicate (f.length - 1) pendingResponse ++ [doneResponse (decodeFrame f)]) ++
        List.replicate p.length pendingResponse) ∧
    (feed State.reset.fbd (frames.flatten ++ p)).2 =
      frames.filterMap fun f => decodedTelegram (decodeFrame f)

/-- R150, R176: a completed frame that `Decode` discards gives OK, `frame_done = 1`, `tg_valid = 0` and nothing more,
whatever the reason. -/
def Obligations.DiscardsAreNotSurfaced : Prop :=
  ∀ (s : State) (d : Byte),
    completes s.fbd (s.fbd.buf ++ [d]) →
    (decodeFrame (s.fbd.buf ++ [d]) = .discardShort ∨ decodeFrame (s.fbd.buf ++ [d]) = .discardType) →
    exec (.fbdPush d) s = .next { s with
      fbd := { st := .awaitLen, buf := [], len := 0#16 }
      responses := s.responses ++
        [{ statusOnly .ok with frameDone := some true, tgValid := some false }] }

/-- R151: where an FBD_PUSH completes a frame, FRAME_DECODE of the same bytes gives the same `tg_valid` and `tg`, with
status OK. -/
def Obligations.DetectorAndFrameDecodeAgree : Prop :=
  ∀ (s t : State) (d : Byte), fbdInv s.fbd → completes s.fbd (s.fbd.buf ++ [d]) →
    ∃ s' t' r q,
      exec (.fbdPush d) s = .next s' ∧ s'.responses = s.responses ++ [r] ∧
      exec (.frameDecode (s.fbd.buf ++ [d])) t = .next t' ∧ t'.responses = t.responses ++ [q] ∧
      r.frameDone = some true ∧ q.status = .ok ∧ r.tgValid = q.tgValid ∧ r.tg = q.tg

/-- R197: after a prefix `FF FF` from the reset state, the next 65534 bytes give no completion and no telegram, whatever
they are, and the 65535th completes the frame. -/
def Obligations.LongestPrefixHoldsTheDetector : Prop :=
  (∀ body : Bytes, body.length < 65535 →
    feedResponses State.reset.fbd ([0xFF#8, 0xFF#8] ++ body) =
      ({ st := .awaitBody, buf := [0xFF#8, 0xFF#8] ++ body, len := 0xFFFF#16 },
        List.replicate (body.length + 2) pendingResponse)) ∧
  (∀ body : Bytes, body.length = 65535 →
    (feedResponses State.reset.fbd ([0xFF#8, 0xFF#8] ++ body)).1 = State.reset.fbd ∧
    (feedResponses State.reset.fbd ([0xFF#8, 0xFF#8] ++ body)).2.getLast? =
      some (doneResponse (decodeFrame ([0xFF#8, 0xFF#8] ++ body))))

/-! ## Frames, errors and responses -/

/-- R20, R50: the eight commands of the stateless units change nothing but the list of responses, and a second run gives
the same response; FBD_CLEAR leaves the state of a first FBD_CLEAR unchanged; FBD_PUSH does not. -/
def Obligations.StatelessUnitsAndIdempotency : Prop :=
  (∀ (i : Instr) (s : State), unitOf (mnemonicOfInstr i) ≠ .fbd →
    ∃ r, exec i s = .next { s with responses := s.responses ++ [r] } ∧
      exec i { s with responses := s.responses ++ [r] } =
        .next { s with responses := s.responses ++ [r, r] }) ∧
  (∀ s : State, ∃ s' s'',
    exec .fbdClear s = .next s' ∧ exec .fbdClear s' = .next s'' ∧ s''.fbd = s'.fbd) ∧
  (∃ (d : Byte) (s s' s'' : State),
    exec (.fbdPush d) s = .next s' ∧ exec (.fbdPush d) s' = .next s'' ∧ s''.fbd ≠ s'.fbd)

/-- R171: a command that answers any status but OK changes no state and defines no other slot. -/
def Obligations.ErrorsChangeNothingAndDefineOnlyStatus : Prop :=
  ∀ (i : Instr) (s s' : State) (r : Response),
    exec i s = .next s' → s'.responses = s.responses ++ [r] → r.status ≠ .ok →
    s' = { s with responses := s.responses ++ [r] } ∧ r = statusOnly r.status

/-- R120, R124, R144, R170: a command answers OK exactly when its operands are well-formed, else the one error its rule
names; no command answers `ERR_INVALID_ADDRESS`, `ERR_PAYLOAD_TOO_SMALL` (R122) or `ERR_ILLEGAL_OP`. -/
def Obligations.StatusOkExactlyOnWellFormedOperands : Prop :=
  ∀ (i : Instr) (s s' : State) (r : Response),
    exec i s = .next s' → s'.responses = s.responses ++ [r] →
    (r.status = .ok ↔ i.wf = true) ∧
    (r.status = .errPayloadTooLarge → mnemonicOfInstr i = .framePack) ∧
    (r.status = .errFieldRange → mnemonicOfInstr i = .framePack ∨ mnemonicOfInstr i = .mkWrite) ∧
    (r.status = .errFrameLength → mnemonicOfInstr i = .frameDecode) ∧
    r.status ∉ [.errInvalidAddress, .errPayloadTooSmall, .errIllegalOp]

/-- R83: a command defines exactly its slots: with status OK those of its row, with `tg` when `tg_valid = 1`; with any
other status, `status` alone. -/
def Obligations.ResponseDefinesExactlyItsSlots : Prop :=
  ∀ (i : Instr) (s s' : State) (r : Response),
    exec i s = .next s' → s'.responses = s.responses ++ [r] →
    ∀ x : ResponseSlot, definesSlot r x = true ↔
      x = .status ∨
      (r.status = .ok ∧
        (x ∈ okSlots (mnemonicOfInstr i) ∨ (x = .tg ∧ r.tgValid = some true)))

/-- R21, R84, I1: reading an undefined slot is a fault that names the slot, after every error and after FBD_CLEAR; so is
reading `vshort` or `vraw` of a telegram of another kind. -/
def Obligations.UndefinedSlotsFaultWhenRead : Prop :=
  (∀ (e : Status) (x : ResponseSlot), x ≠ .status → readSlot (statusOnly e) x = .error (.undefinedSlot x)) ∧
  (∀ t : Telegram,
    (t.value = .read → readShort t = .error .undefinedShort ∧ readRaw t = .error .undefinedRaw) ∧
    (∀ v, t.value = .short v → readShort t = .ok v ∧ readRaw t = .error .undefinedRaw) ∧
    (∀ b, t.value = .raw b → readShort t = .error .undefinedShort ∧ readRaw t = .ok b))

/-- R84, R86, R170: the codes. No status has a code 0x6 to 0xE, no outcome and no value kind has code 3. -/
def Obligations.CodesAsGiven : Prop :=
  ([Status.ok, .errInvalidAddress, .errPayloadTooSmall, .errPayloadTooLarge, .errFieldRange, .errFrameLength,
      .errIllegalOp].map statusCode = [0x0#4, 0x1#4, 0x2#4, 0x3#4, 0x4#4, 0x5#4, 0xF#4]) ∧
  (∀ e : Status, (statusCode e).toNat ≤ 5 ∨ (statusCode e).toNat = 15) ∧
  ([DecodeOutcome.emit, .discardShort, .discardType].map outcomeCode = [0#2, 1#2, 2#2]) ∧
  (∀ o : DecodeOutcome, outcomeCode o ≠ 3#2) ∧
  (vkindCode .read = 0#2 ∧ (∀ v, vkindCode (.short v) = 1#2) ∧ (∀ b, vkindCode (.raw b) = 2#2)) ∧
  (widthCode .u8 = 0#1 ∧ widthCode .u16 = 1#1)

/-- R30, on the model's list of instances (log entry 13): a step of one instance leaves every other instance as it was. -/
def Obligations.InstancesAreIndependent : Prop :=
  ∀ (k : Nat) (l l' : List State), stepInstance k l = some l' →
    l'.length = l.length ∧
    (∀ j, j ≠ k → l'[j]? = l[j]?) ∧
    (∃ s s', l[k]? = some s ∧ step s = .next s' ∧ l'[k]? = some s')

/-! ## Host notation -/

/-- R104: parse the canonical text of in-range fields, GA_PACK, GA_UNPACK, print: the same text again. -/
def Obligations.CanonicalTextRoundTrips : Prop :=
  ∀ (main middle sub : Nat) (s : State), main ≤ 31 → middle ≤ 7 → sub ≤ 255 →
    ∃ (i : Instr) (w m mi su : Word),
      groupAddressPack (.text (printGroup main middle sub)) = .ok i ∧
      exec i s = .next { s with responses := s.responses ++ [wordResponse w] } ∧
      exec (.gaUnpack w) s = .next { s with responses := s.responses ++ [wordsResponse m mi su] } ∧
      printGroup m.toNat mi.toNat su.toNat = printGroup main middle sub

/-- R88, steps 3 and 4, for a text and for the three-field struct, whose fields go to step 3 directly: the naturals are
masked, not refused, and passing them to GA_PACK modulo 2^16 gives the same word. -/
def Obligations.HostWordIsTheBlocksWord : Prop :=
  ∀ (g : GroupAddress) (n0 n1 n2 : Nat) (s : State),
    ((∃ t, g = .text t ∧ parseGroupText t = .ok (n0, n1, n2)) ∨ g = .fields n0 n1 n2) →
    ∃ (i : Instr) (w : Word),
      groupAddressWord g = .ok w ∧
      w = BitVec.ofNat 16 (2048 * (n0 % 32) + 256 * (n1 % 8) + n2 % 256) ∧
      groupAddressPack g = .ok i ∧
      i = .gaPack (BitVec.ofNat 16 n0) (BitVec.ofNat 16 n1) (BitVec.ofNat 16 n2) ∧
      exec i s = .next { s with responses := s.responses ++ [wordResponse w] }

/-- R88, steps 1 and 2: a text parses exactly when it has three parts between `/`, each a non-empty string of the digits
0 to 9; else the error is `InvalidAddress`. -/
def Obligations.GroupTextsAreThreeDecimalParts : Prop :=
  ∀ t : Text,
    ((∃ n, parseGroupText t = .ok n) ↔
      ∃ p0 p1 p2 : Text, t = p0 ++ ['/'] ++ p1 ++ ['/'] ++ p2 ∧
        ∀ p ∈ [p0, p1, p2], p ≠ [] ∧ ∀ ch ∈ p, ch ∈ ['0', '1', '2', '3', '4', '5', '6', '7', '8', '9']) ∧
    (∀ e, parseGroupText t = .error e → e = .errInvalidAddress)

/-- R92, R193, R194: the host's operations and the commands they issue, for an address as text or as fields: MK_OPEN then
FBD_CLEAR on `connect`; on `write` MK_WRITE with 0 or 1, after a GA_PACK of the address where the host gets the word so
(R92 allows either way; log entry 18); on `readRequest` GA_PACK and MK_READ of the same word; FBD_PUSH of each byte;
nothing on `close`. An address the host's parse refuses issues nothing. -/
def Obligations.HostOperationsIssueTheirCommands : Prop :=
  connectActions = [.openTransport, .issue (encode .mkOpen), .sendFrame, .issue (encode .fbdClear)] ∧
  (∀ (g : GroupAddress) (w : Word) (i : Instr), groupAddressWord g = .ok w → groupAddressPack g = .ok i →
    (∀ v : WriteValue, ∃ d : Byte,
      writeActions .byGaPack g v = .ok [.issue (encode i), .issue (encode (.mkWrite w d)), .sendFrame] ∧
      writeActions .byHost g v = .ok [.issue (encode (.mkWrite w d)), .sendFrame] ∧
      d = if v = .bool false ∨ v = .number 0 then 0#8 else 1#8) ∧
    readRequestActions g = .ok [.issue (encode i), .issue (encode (.mkRead w)), .sendFrame]) ∧
  (∀ (g : GroupAddress) (e : Status), groupAddressWord g = .error e →
    (∀ way v, writeActions way g v = .error e) ∧ readRequestActions g = .error e) ∧
  (∀ chunk : Bytes, commandsOf (feedActions chunk) = chunk.map fun b => encode (.fbdPush b)) ∧
  (∀ chunks : List Bytes, commandsOf (monitorActions chunks) = chunks.flatten.map fun b => encode (.fbdPush b)) ∧
  commandsOf closeActions = []

/-- R85: what the host makes of a telegram's value. -/
def Obligations.HostValuesAsGiven : Prop :=
  hostValue .read = .int (-1) ∧
  (∀ v : BitVec 6, ∃ n : Int, hostValue (.short v) = .int n ∧ n = v.toNat ∧ 0 ≤ n ∧ n ≤ 63) ∧
  (∀ b : Bytes, hostValue (.raw b) = .bytes b)

/-- R91: each row's line assembles to its command, one space after the mnemonic and after each comma (log entry 14). Every
number may be decimal or hexadecimal; the word of GA_UNPACK, MK_WRITE and MK_READ a number or an address text in quotes;
FRAME_PACK's entries any list of `u8 v` and `u16 v`; FRAME_DECODE's sequence, of any length, `b'\x..'` or hex bytes, two
digits a byte. Hexadecimal digits are of either letter case (log entry 14). -/
def Obligations.CommandLinesAssemble : Prop :=
  (∀ (a b c : Word) (x y z : Text), spellsNumber x a.toNat → spellsNumber y b.toNat → spellsNumber z c.toNat →
    assemble (mnemonicText .gaPack ++ [' '] ++ x ++ [',', ' '] ++ y ++ [',', ' '] ++ z) = .ok (some (.gaPack a b c))) ∧
  (∀ (a : Word) (x : Text), spellsGroupOperand x a →
    assemble (mnemonicText .gaUnpack ++ [' '] ++ x) = .ok (some (.gaUnpack a)) ∧
    assemble (mnemonicText .mkRead ++ [' '] ++ x) = .ok (some (.mkRead a)) ∧
    ∀ (d : Byte) (y : Text), spellsNumber y d.toNat →
      assemble (mnemonicText .mkWrite ++ [' '] ++ x ++ [',', ' '] ++ y) = .ok (some (.mkWrite a d))) ∧
  (∀ (a : Word) (x : Text), spellsNumber x a.toNat →
    assemble (mnemonicText .iaUnpack ++ [' '] ++ x) = .ok (some (.iaUnpack a))) ∧
  (∀ (a : Word) (x : Text) (es : List FieldEntry) (ts : List Text),
    spellsNumber x a.toNat → List.Forall₂ spellsEntry ts es →
    assemble (mnemonicText .framePack ++ [' '] ++ x ++ ts.flatMap fun t => [',', ' '] ++ t) =
      .ok (some (.framePack a es))) ∧
  assemble (mnemonicText .mkOpen) = .ok (some .mkOpen) ∧
  (∀ (bs : Bytes) (ts : List Text), List.Forall₂ spellsHexByte ts bs →
    assemble (mnemonicText .frameDecode ++ [' ', 'b', '\''] ++ (ts.flatMap fun t => ['\\', 'x'] ++ t) ++ ['\'']) =
      .ok (some (.frameDecode bs)) ∧
    assemble (mnemonicText .frameDecode ++ ts.flatMap fun t => [' '] ++ t) = .ok (some (.frameDecode bs))) ∧
  (∀ (d : Byte) (x : Text), spellsNumber x d.toNat →
    assemble (mnemonicText .fbdPush ++ [' '] ++ x) = .ok (some (.fbdPush d))) ∧
  assemble (mnemonicText .fbdClear) = .ok (some .fbdClear)

/-- R91: a comment starts with `;` and changes nothing. -/
def Obligations.CommentsAreIgnored : Prop :=
  ∀ line comment : Text, assemble (line ++ [';'] ++ comment) = assemble line

/-- R91: an address text in quotes that R88 refuses makes the line an error, in each command that takes such an operand,
whatever stands for MK_WRITE's value. The text has no quote of its own, which would end it. -/
def Obligations.RefusedAddressTextsMakeTheLineAnError : Prop :=
  ∀ (q y : Text) (e : Status), '"' ∉ q → parseGroupText q = .error e →
    assemble (mnemonicText .gaUnpack ++ [' ', '"'] ++ q ++ ['"']) = .error .badOperands ∧
    assemble (mnemonicText .mkRead ++ [' ', '"'] ++ q ++ ['"']) = .error .badOperands ∧
    assemble (mnemonicText .mkWrite ++ [' ', '"'] ++ q ++ ['"', ',', ' '] ++ y) = .error .badOperands
end

