-- ==== Sys2Proof/Laws/Decode.lean ====
section
/-! SUPPORT. The opcode map read backwards. -/

namespace Sys2Proof

/-- A row is selected by its own opcode byte (R81). -/
@[simp] theorem mnemonicOf_opcodeByte (m : Mnemonic) : mnemonicOf (opcodeByte m) = some m := by
  cases m <;> rfl

/-- A byte selects a row only if it is that row's opcode: the whole byte is compared (R81). -/
theorem mnemonicOf_eq_some (op : Byte) (m : Mnemonic) : mnemonicOf op = some m ↔ op = opcodeByte m := by
  constructor
  · intro h
    have hm := List.find?_some (p := fun m => opcodeByte m == op) h
    exact (beq_iff_eq.mp hm).symm
  · rintro rfl
    exact mnemonicOf_opcodeByte m

/-- No two rows of the opcode map share a byte. -/
theorem opcodeByte_injective (m m' : Mnemonic) (h : opcodeByte m = opcodeByte m') : m = m' := by
  simpa using congrArg mnemonicOf h

end Sys2Proof
end

