-- ==== Sys2Proof/Laws/Operands.lean ====
section
/-! SUPPORT. What the readers and writers of words and byte sequences give. -/

namespace Sys2Proof.Machine

/-- Below the length, `byteAt` is the byte at that offset: the value past the end is not reached. -/
theorem byteAt_eq_getElem (s : Bytes) (i : Nat) (h : i < s.length) : byteAt s i = s[i] := by
  simp [byteAt, h]

theorem be16_toNat (h l : Byte) : (be16 h l).toNat = 256 * h.toNat + l.toNat := by
  rw [be16, BitVec.toNat_append, ← Nat.shiftLeft_add_eq_or_of_lt l.isLt, Nat.shiftLeft_eq]
  omega

@[simp] theorem bytes16_length (v : Word) : (bytes16 v).length = 2 := rfl

/-- Reading back what was written (R40). -/
@[simp] theorem be16_bytes16 (v : Word) : be16 (v.extractLsb' 8 8) (v.extractLsb' 0 8) = v := by
  rw [← BitVec.toNat_inj, be16_toNat, BitVec.extractLsb'_toNat, BitVec.extractLsb'_toNat]
  have := v.isLt
  simp only [Nat.shiftRight_eq_div_pow]
  omega

/-- Writing what was read (R40). -/
@[simp] theorem bytes16_be16 (h l : Byte) : bytes16 (be16 h l) = [h, l] := by
  have := h.isLt
  have := l.isLt
  simp only [bytes16, List.cons.injEq, and_true, ← BitVec.toNat_inj, BitVec.extractLsb'_toNat, be16_toNat,
    Nat.shiftRight_eq_div_pow]
  omega

theorem wordAt_eq_getElem (s : Bytes) (i : Nat) (h : i + 1 < s.length) :
    wordAt s i = be16 s[i] s[i + 1] := by
  rw [wordAt, byteAt_eq_getElem s i (by omega), byteAt_eq_getElem s (i + 1) h]

/-- Appending bytes does not change a byte that was there already. -/
theorem byteAt_append (s t : Bytes) (i : Nat) (h : i < s.length) : byteAt (s ++ t) i = byteAt s i := by
  simp [byteAt, List.getElem?_append_left h]

/-- Nor a field. -/
theorem wordAt_append (s t : Bytes) (i : Nat) (h : i + 1 < s.length) : wordAt (s ++ t) i = wordAt s i := by
  rw [wordAt, wordAt, byteAt_append s t i (Nat.lt_of_succ_lt h), byteAt_append s t (i + 1) h]

theorem fieldBytes_cons (e : FieldEntry) (fl : List FieldEntry) :
    fieldBytes (e :: fl) = entryBytes e ++ fieldBytes fl := rfl

theorem frameBody_length (a : Word) (fl : List FieldEntry) :
    (frameBody a fl).length = 2 + (fieldBytes fl).length := by
  simp [frameBody]

/-- A u8 entry fits exactly when its value is at most 0xFF; a u16 entry always (R87). -/
theorem entryFits_iff (e : FieldEntry) : entryFits e = true ↔ (e.w = .u8 → e.val.toNat ≤ 0xFF) := by
  obtain ⟨w, v⟩ := e
  have := v.isLt
  cases w
  · simp only [entryFits, beq_iff_eq, ← BitVec.toNat_inj, BitVec.extractLsb'_toNat, Nat.shiftRight_eq_div_pow,
      BitVec.toNat_ofNat, forall_const]
    omega
  · simp [entryFits]

end Sys2Proof.Machine
end

