-- ==== Sys2Proof/Laws/Detector.lean ====
section
/-! SUPPORT. What one stream byte can do, said once. -/

namespace Sys2Proof.Machine

/-- The two cases of FBD_PUSH (R145): the byte completes a frame, or it is kept. -/
theorem pushByte_cases (f : Fbd) (d : Byte) :
    (completes f (f.buf ++ [d]) ∧
      pushByte f d = (Fbd.reset, doneResponse (decodeFrame (f.buf ++ [d])))) ∨
    (¬ completes f (f.buf ++ [d]) ∧
      pushByte f d =
        ({ st := pushedSt f (f.buf ++ [d]), buf := f.buf ++ [d], len := pushedLen f (f.buf ++ [d]) },
          pendingResponse)) := by
  by_cases h : completes f (f.buf ++ [d])
  · exact .inl ⟨h, if_pos h⟩
  · exact .inr ⟨h, if_neg h⟩

@[simp] theorem pushByte_of_completes (f : Fbd) (d : Byte) (h : completes f (f.buf ++ [d])) :
    pushByte f d = (Fbd.reset, doneResponse (decodeFrame (f.buf ++ [d]))) := if_pos h

@[simp] theorem pushByte_of_not_completes (f : Fbd) (d : Byte) (h : ¬ completes f (f.buf ++ [d])) :
    pushByte f d =
      ({ st := pushedSt f (f.buf ++ [d]), buf := f.buf ++ [d], len := pushedLen f (f.buf ++ [d]) },
        pendingResponse) := if_neg h

@[simp] theorem feedResponses_nil (f : Fbd) : feedResponses f [] = (f, []) := rfl

theorem feedResponses_cons (f : Fbd) (b : Byte) (bs : Bytes) :
    feedResponses f (b :: bs) =
      ((feedResponses (pushByte f b).1 bs).1, (pushByte f b).2 :: (feedResponses (pushByte f b).1 bs).2) := rfl

end Sys2Proof.Machine
end

