-- ==== Sys2Proof/Laws/Host.lean ====
section
/-! SUPPORT. The host's group addresses and the actions that get a word, one lemma for each case. -/

namespace Sys2Proof.Machine

@[simp] theorem groupParts_text (t : Text) : groupParts (.text t) = parseGroupText t := rfl
@[simp] theorem groupParts_fields (m mi s : Nat) : groupParts (.fields m mi s) = .ok (m, mi, s) := rfl

/-- Getting a word at the host issues nothing; by the block, one GA_PACK. An address the host refuses gives its error. -/
theorem wordActions_cases (way : WordWay) (g : GroupAddress) :
    (∃ e, groupParts g = .error e ∧ wordActions way g = .error e) ∨
    (∃ i w, groupAddressPack g = .ok i ∧ groupAddressWord g = .ok w ∧
      wordActions way g = .ok (match way with | .byGaPack => [.issue (encode i)] | .byHost => [], w)) := by
  unfold wordActions groupAddressPack groupAddressWord
  cases h : groupParts g with
  | error e => exact .inl ⟨e, rfl, rfl⟩
  | ok n => exact .inr ⟨_, _, rfl, rfl, rfl⟩

end Sys2Proof.Machine
end

