-- ==== Sys2Proof/Laws/State.lean ====
section
/-! SUPPORT. One lemma for each field after each update of State, so that no proof unfolds a record update. -/

namespace Sys2Proof.Machine

variable (s : State) (r : Response) (f : Fbd) (l : List HostInput) (c : CommandRecord) (cs : List CommandRecord)

@[simp] theorem respond_fbd : (s.respond r).fbd = s.fbd := rfl
@[simp] theorem respond_inbox : (s.respond r).inbox = s.inbox := rfl
@[simp] theorem respond_responses : (s.respond r).responses = s.responses ++ [r] := rfl

@[simp] theorem setFbd_fbd : (s.setFbd f).fbd = f := rfl
@[simp] theorem setFbd_inbox : (s.setFbd f).inbox = s.inbox := rfl
@[simp] theorem setFbd_responses : (s.setFbd f).responses = s.responses := rfl

@[simp] theorem setInbox_fbd : (s.setInbox l).fbd = s.fbd := rfl
@[simp] theorem setInbox_inbox : (s.setInbox l).inbox = l := rfl
@[simp] theorem setInbox_responses : (s.setInbox l).responses = s.responses := rfl

@[simp] theorem issue_fbd : (s.issue c).fbd = s.fbd := rfl
@[simp] theorem issue_inbox : (s.issue c).inbox = s.inbox ++ [.command c] := rfl
@[simp] theorem issue_responses : (s.issue c).responses = s.responses := rfl

@[simp] theorem issueAll_fbd : (s.issueAll cs).fbd = s.fbd := rfl
@[simp] theorem issueAll_inbox : (s.issueAll cs).inbox = s.inbox ++ cs.map .command := rfl
@[simp] theorem issueAll_responses : (s.issueAll cs).responses = s.responses := rfl

@[simp] theorem putNext_fbd : (s.putNext c).fbd = s.fbd := rfl
@[simp] theorem putNext_inbox : (s.putNext c).inbox = .command c :: s.inbox := rfl
@[simp] theorem putNext_responses : (s.putNext c).responses = s.responses := rfl

@[simp] theorem reset_fbd : State.reset.fbd = Fbd.reset := rfl
@[simp] theorem reset_inbox : State.reset.inbox = [] := rfl
@[simp] theorem reset_responses : State.reset.responses = [] := rfl

@[simp] theorem fbdReset_st : Fbd.reset.st = .awaitLen := rfl
@[simp] theorem fbdReset_buf : Fbd.reset.buf = [] := rfl
@[simp] theorem fbdReset_len : Fbd.reset.len = 0#16 := rfl

/-- Writing the detector state a state has already changes nothing. -/
@[simp] theorem setFbd_self : s.setFbd s.fbd = s := rfl

end Sys2Proof.Machine
end

