-- ==== Sys2Proof/Laws/Ops.lean ====
section
/-! SUPPORT. What each shared operation answers, and what the step does with each kind of input. -/

namespace Sys2Proof.Machine

theorem answer_next (r : Response) (s s' : State) : answer r s = .next s' ↔ s' = s.respond r := by
  simp [answer, eq_comm]

theorem raiseStatus_next (e : Status) (s s' : State) :
    raiseStatus e s = .next s' ↔ s' = s.respond (statusOnly e) := answer_next _ _ _

theorem answerWithFbd_next (f : Fbd) (r : Response) (s s' : State) :
    answerWithFbd f r s = .next s' ↔ s' = (s.setFbd f).respond r := by
  simp [answerWithFbd, eq_comm]

theorem takeIllegalOp_next (s s' : State) :
    takeIllegalOp s = .next s' ↔ s' = s.respond (statusOnly .errIllegalOp) := raiseStatus_next _ _ _

theorem takeReset_next (cut : Option CommandRecord) (s s' : State) :
    takeReset cut s = .next s' ↔ s' = s.setFbd Fbd.reset := by
  simp [takeReset, eq_comm]

theorem takeOverlap_not_next (s s' : State) : takeOverlap s ≠ .next s' := nofun

theorem waitForCommand_next (s s' : State) : waitForCommand s = .next s' ↔ s' = s := by
  simp [waitForCommand, eq_comm]

/-- What the step does, by the input it takes. -/
theorem step_cases (s : State) :
    (s.inbox = [] ∧ step s = .next s) ∨
    (∃ c rest, s.inbox = .command c :: rest ∧ step s = runRecord c (s.setInbox rest)) ∨
    (∃ cut rest, s.inbox = .reset cut :: rest ∧ step s = .next ((s.setInbox rest).setFbd Fbd.reset)) ∨
    (∃ c₁ c₂ rest, s.inbox = .overlap c₁ c₂ :: rest ∧ step s = .fault .overlappingCommands) := by
  obtain ⟨f, inbox, rs⟩ := s
  match inbox with
  | [] => exact .inl ⟨rfl, rfl⟩
  | .command c :: rest => exact .inr (.inl ⟨c, rest, rfl, rfl⟩)
  | .reset cut :: rest => exact .inr (.inr (.inl ⟨cut, rest, rfl, rfl⟩))
  | .overlap c₁ c₂ :: rest => exact .inr (.inr (.inr ⟨c₁, c₂, rest, rfl, rfl⟩))

/-- What a record does: its command's meaning, or the answer to an illegal opcode. -/
theorem runRecord_cases (c : CommandRecord) (s : State) :
    (∃ i, decode c = .ok i ∧ runRecord c s = exec i s) ∨
    (decode c = .error (.illegalOp c.op) ∧ runRecord c s = .next (s.respond (statusOnly .errIllegalOp))) := by
  unfold runRecord decode
  cases h : mnemonicOf c.op with
  | some m => exact .inl ⟨_, rfl, rfl⟩
  | none => exact .inr ⟨rfl, rfl⟩

end Sys2Proof.Machine
end

