-- ==== Sys2Proof/Laws/PerInstr.lean ====
section
/-! SUPPORT. Statements about every command as syntax, one lemma for each constructor. -/

namespace Sys2Proof.Laws.EncodesInItsFormat

/-- The encoding of a command carries its row's opcode byte, and nothing outside the slots its row's format reads (R80,
R81). -/
def Statement (i : Instr) : Prop :=
  (encode i).op = opcodeByte (mnemonicOfInstr i) ∧
  readSlots (formatOf (mnemonicOfInstr i)) (encode i) = encode i

theorem gaPack (a b c : Word) : Statement (.gaPack a b c) := ⟨rfl, rfl⟩
theorem gaUnpack (a : Word) : Statement (.gaUnpack a) := ⟨rfl, rfl⟩
theorem iaUnpack (a : Word) : Statement (.iaUnpack a) := ⟨rfl, rfl⟩
theorem framePack (a : Word) (fl : List FieldEntry) : Statement (.framePack a fl) := ⟨rfl, rfl⟩
theorem mkOpen : Statement .mkOpen := ⟨rfl, rfl⟩
theorem mkWrite (a : Word) (d : Byte) : Statement (.mkWrite a d) := ⟨rfl, rfl⟩
theorem mkRead (a : Word) : Statement (.mkRead a) := ⟨rfl, rfl⟩
theorem frameDecode (seq : Bytes) : Statement (.frameDecode seq) := ⟨rfl, rfl⟩
theorem fbdPush (d : Byte) : Statement (.fbdPush d) := ⟨rfl, rfl⟩
theorem fbdClear : Statement .fbdClear := ⟨rfl, rfl⟩

end Sys2Proof.Laws.EncodesInItsFormat
end

