-- ==== Sys2Proof/Laws/Run.lean ====
section
/-! SUPPORT. Runs of the machine, one step unfolded. -/

namespace Sys2Proof.Machine

@[simp] theorem runSteps_zero (s : State) : runSteps 0 s = .next s := rfl

/-- A run whose first step goes on is the rest of the run from there. -/
theorem runSteps_succ_of_next (k : Nat) (s s' : State) (h : step s = .next s') :
    runSteps (k + 1) s = runSteps k s' := by
  rw [runSteps, h]

end Sys2Proof.Machine
end

