-- ==== Sys2Proof/Tests/Slice0.lean ====
section
/-! SUPPORT. Tests: decoding of records written out from spec/30_encoding.md R80 and R81, the well-formedness smoke, one
step for each command with expected values from spec/95_test_vectors.md, and a witness for the hypotheses of each
statement that has any. -/

namespace Sys2Proof.Tests

open Sys2Proof.Machine

/-- A state with the given detector and inputs, nothing answered. -/
def st (f : Fbd) (l : List HostInput) : State := { fbd := f, inbox := l, responses := [] }

/-- The response a step gives last, and the detector after it. -/
def lastOf : StepOutcome → Option (Fbd × Option Response)
  | .next s => some (s.fbd, s.responses.getLast?)
  | .fault _ => none
  | .refused _ => none

/-- The last response of one command run in the reset state. -/
def answerOf (i : Instr) : Option Response := (lastOf (exec i State.reset)).bind Prod.snd

/-- The detector after the bytes of a chunk, and its telegrams. -/
def fed (bs : Bytes) : Fbd × List Telegram := feed State.reset.fbd bs

/-- The frame of W6. -/
def frameW6 : Bytes := [0x00#8, 0x08#8, 0x00#8, 0x27#8, 0x11#8, 0x08#8, 0x00#8, 0x14#8, 0x00#8, 0x81#8]

/-- Its telegram: 1.1.8 to 0/0/20, SHORT 1. -/
def telegramW6 : Telegram :=
  { src := 0x1108#16, dst := 0x0014#16, area := 1, line := 1, device := 8, main := 0, middle := 0, sub := 20,
    value := .short 1 }

/-! ## Decoding: every row, its slots written out (R80, R81) -/

theorem test_decode_gaPack : decode ⟨0x01#8, 0#16, 1#16, 14#16, 0#8, [], []⟩ = .ok (.gaPack 0#16 1#16 14#16) := rfl
theorem test_decode_gaUnpack : decode ⟨0x02#8, 270#16, 9#16, 9#16, 9#8, [], []⟩ = .ok (.gaUnpack 270#16) := rfl
theorem test_decode_iaUnpack : decode ⟨0x03#8, 4606#16, 0#16, 0#16, 0#8, [], []⟩ = .ok (.iaUnpack 4606#16) := rfl
theorem test_decode_framePack :
    decode ⟨0x10#8, 27#16, 0#16, 0#16, 0#8, [], [⟨.u16, 1#16⟩, ⟨.u8, 0#16⟩]⟩ =
      .ok (.framePack 27#16 [⟨.u16, 1#16⟩, ⟨.u8, 0#16⟩]) := rfl
theorem test_decode_mkOpen : decode ⟨0x11#8, 0#16, 0#16, 0#16, 0#8, [], []⟩ = .ok .mkOpen := rfl
theorem test_decode_mkWrite : decode ⟨0x12#8, 20#16, 0#16, 0#16, 1#8, [], []⟩ = .ok (.mkWrite 20#16 1#8) := rfl
theorem test_decode_mkRead : decode ⟨0x13#8, 20#16, 0#16, 0#16, 0#8, [], []⟩ = .ok (.mkRead 20#16) := rfl
theorem test_decode_frameDecode :
    decode ⟨0x20#8, 0#16, 0#16, 0#16, 0#8, frameW6, []⟩ = .ok (.frameDecode frameW6) := rfl
theorem test_decode_fbdPush : decode ⟨0x30#8, 0#16, 0#16, 0#16, 0x81#8, [], []⟩ = .ok (.fbdPush 0x81#8) := rfl
theorem test_decode_fbdClear : decode ⟨0x31#8, 0#16, 0#16, 0#16, 0#8, [], []⟩ = .ok .fbdClear := rfl

/-- Section 2.5 of the vectors. -/
theorem test_decode_illegal :
    [0x00#8, 0x04#8, 0x05#8, 0x14#8, 0x21#8, 0x32#8, 0xFF#8].map mnemonicOf = List.replicate 7 none := by decide

theorem test_table_word : decodeTableWord 8 0x30 = some (.fbdPush 0#8) := rfl

theorem test_table_word_runs_first :
    step (State.reset.withFetchWord 8 0x13) = exec (.mkRead 0#16) State.reset := rfl

/-! ## Well-formedness: one ill-formed term for each check -/

theorem test_wf_framePack_range : Instr.wf (.framePack 1#16 [⟨.u8, 0x100#16⟩]) = false := by decide

theorem fieldBytes_replicate (n : Nat) (v : Word) : (fieldBytes (List.replicate n ⟨.u16, v⟩)).length = 2 * n := by
  induction n with
  | zero => rfl
  | succ n ih =>
    rw [List.replicate_succ, fieldBytes_cons, List.length_append, ih]
    simp only [entryBytes, bytes16_length]
    omega

theorem test_wf_framePack_size : Instr.wf (.framePack 0#16 (List.replicate 32767 ⟨.u16, 0#16⟩)) = false := by
  rw [Instr.wf, framePackWf, frameBody_length, fieldBytes_replicate]
  exact Bool.and_eq_false_iff.mpr (.inr rfl)

theorem test_wf_mkWrite : Instr.wf (.mkWrite 20#16 2#8) = false := by decide
theorem test_wf_frameDecode : Instr.wf (.frameDecode [0x00#8]) = false := by decide
theorem test_wf_frameDecode_trailing : Instr.wf (.frameDecode [0x00#8, 0x02#8, 0x00#8, 0x27#8, 0x99#8]) = false := by
  decide

/-! ## One step for each command: vectors W2 to W12 and sections 2.1 to 2.4 -/

theorem test_gaPack : answerOf (.gaPack 0#16 1#16 14#16) = some (wordResponse 270#16) := by decide
theorem test_gaPack_masks : answerOf (.gaPack 40#16 9#16 300#16) = some (wordResponse 0x412C#16) := by decide
theorem test_gaUnpack : answerOf (.gaUnpack 0x412C#16) = some (wordsResponse 8#16 1#16 44#16) := by decide
theorem test_gaUnpack_bit11 : answerOf (.gaUnpack 0x0800#16) = some (wordsResponse 1#16 0#16 0#16) := by decide
theorem test_iaUnpack : answerOf (.iaUnpack 4606#16) = some (wordsResponse 1#16 1#16 254#16) := by decide
theorem test_iaUnpack_bit11 : answerOf (.iaUnpack 0x1FFF#16) = some (wordsResponse 1#16 7#16 255#16) := by decide
theorem test_framePack_odd_offset :
    answerOf (.framePack 0x1234#16 [⟨.u8, 0xAB#16⟩, ⟨.u16, 0xCDEF#16⟩]) =
      some (frameResponse [0x00#8, 0x05#8, 0x12#8, 0x34#8, 0xAB#8, 0xCD#8, 0xEF#8]) := by decide
theorem test_framePack_range : answerOf (.framePack 1#16 [⟨.u8, 0x100#16⟩]) = some (statusOnly .errFieldRange) := by
  decide
theorem test_mkOpen :
    answerOf .mkOpen = some (frameResponse [0x00#8, 0x05#8, 0x00#8, 0x26#8, 0x00#8, 0x00#8, 0x00#8]) := by decide
theorem test_mkWrite :
    answerOf (.mkWrite 20#16 1#8) =
      some (frameResponse [0x00#8, 0x06#8, 0x00#8, 0x27#8, 0x00#8, 0x14#8, 0x00#8, 0x81#8]) := by decide
theorem test_mkWrite_range : answerOf (.mkWrite 20#16 2#8) = some (statusOnly .errFieldRange) := by decide
theorem test_mkRead :
    answerOf (.mkRead 20#16) =
      some (frameResponse [0x00#8, 0x06#8, 0x00#8, 0x27#8, 0x00#8, 0x14#8, 0x00#8, 0x00#8]) := by decide
theorem test_frameDecode : answerOf (.frameDecode frameW6) = some (decodeResponse (.emit telegramW6)) := by decide

/-- W8: the command byte is no part of the raw value. -/
theorem test_frameDecode_raw :
    telegramValue [0x00#8, 0x0B#8, 0x00#8, 0x27#8, 0x11#8, 0x08#8, 0x00#8, 0x14#8, 0x00#8, 0x80#8, 0x03#8, 0xA3#8,
      0x03#8] = .raw [0x03#8, 0xA3#8, 0x03#8] := by decide

/-- A read whatever the low six bits (C15), a class 0b11 byte is a value (section 2.3). -/
theorem test_value_classes :
    telegramValue (frameW6.set 9 0x3F#8) = .read ∧ telegramValue (frameW6.set 9 0xFF#8) = .short 63#6 := by decide

/-- W6, W7: the telegram comes with the tenth byte. -/
theorem test_fbdPush_completes :
    lastOf (exec (.fbdPush 0x81#8) (st (fbdHolding (frameW6.take 9)) [])) =
      some (Fbd.reset, some (doneResponse (.emit telegramW6))) := by decide

/-- Section 2.4: `00 08` leaves AWAIT_BODY, [00 08], 8. -/
theorem test_fbdPush_length :
    lastOf (exec (.fbdPush 0x08#8) (st ⟨.awaitLen, [0x00#8], 0#16⟩ [])) =
      some (⟨.awaitBody, [0x00#8, 0x08#8], 8#16⟩, some pendingResponse) := by decide

theorem test_fbdClear :
    lastOf (exec .fbdClear (st ⟨.awaitBody, [0x00#8, 0x08#8, 0x00#8], 8#16⟩ [])) =
      some (Fbd.reset, some (statusOnly .ok)) := by decide

/-- W9: a discarded frame, then a telegram. -/
theorem test_feed_resumes :
    fed ([0x00#8, 0x05#8, 0x00#8, 0x26#8, 0x00#8, 0x00#8, 0x00#8] ++ frameW6) = (Fbd.reset, [telegramW6]) := by
  decide +kernel

/-! ## Host notation: sections 1 and 2.6, and R91 -/

theorem test_parse_text : groupAddressWord (.text ['0', '0', '/', '0', '1', '/', '0', '1', '4']) = .ok 270#16 := by rfl
theorem test_parse_text_masks : groupAddressWord (.text ['4', '0', '/', '9', '/', '3', '0', '0']) = .ok 0x412C#16 := by rfl
/-- W11: `read(conn, GroupAddress(0,0,20))`, the three-field form. -/
theorem test_readRequest_fields :
    readRequestActions (.fields 0 0 20) =
      .ok [.issue (encode (.gaPack 0#16 0#16 20#16)), .issue (encode (.mkRead 20#16)), .sendFrame] := rfl
theorem test_coerce :
    [WriteValue.bool false, .number 0, .bool true, .number (-1), .number (1 / 2), .other].map coerce =
      [0#8, 0#8, 1#8, 1#8, 1#8, 1#8] := by simp [coerce]
theorem test_parse_text_refuses :
    [['0', '/', '1'], ['0', '/', '1', '/', '2', '/', '3'], ['0', '/', '/', '1'], ['a', '/', '1', '/', '2'],
      ['-', '1', '/', '0', '/', '0'], [' ', '1', '/', '2', '/', '3'], ['0', '.', '1', '.', '1', '4']].map
      (fun t => (parseGroupText t).toOption) = List.replicate 7 none := by decide
theorem test_print_text :
    (hostTelegram telegramW6).src = ['1', '.', '1', '.', '8'] ∧
    (hostTelegram telegramW6).dst = ['0', '/', '0', '/', '2', '0'] ∧
    (hostTelegram telegramW6).value = .int 1 := by decide
/-- `MK_WRITE "0/0/20", 1 ; on` -/
theorem test_assemble_quoted :
    assemble ['M', 'K', '_', 'W', 'R', 'I', 'T', 'E', ' ', '"', '0', '/', '0', '/', '2', '0', '"', ',', ' ', '1', ' ',
      ';', ' ', 'o', 'n'] = .ok (some (.mkWrite 20#16 1#8)) := by rfl
/-- `FRAME_DECODE b'\x00\x1b'` and `FRAME_DECODE 00 1B` -/
theorem test_assemble_bytes :
    assemble (mnemonicText .frameDecode ++ [' ', 'b', '\'', '\\', 'x', '0', '0', '\\', 'x', '1', 'b', '\'']) =
      .ok (some (.frameDecode [0x00#8, 0x1B#8])) ∧
    assemble (mnemonicText .frameDecode ++ [' ', '0', '0', ' ', '1', 'B']) =
      .ok (some (.frameDecode [0x00#8, 0x1B#8])) := ⟨rfl, rfl⟩
/-- `FRAME_PACK 0x1, u8 0x100`: the range check is the command's, not the assembler's. -/
theorem test_assemble_fields :
    assemble (mnemonicText .framePack ++ [' ', '0', 'x', '1', ',', ' ', 'u', '8', ' ', '0', 'x', '1', '0', '0']) =
      .ok (some (.framePack 1#16 [⟨.u8, 0x100#16⟩])) := rfl
/-- `GA_PACK 65536, 0, 0` does not fit, `IA_PACK 0` is no command. -/
theorem test_assemble_errors :
    assemble (mnemonicText .gaPack ++ [' ', '6', '5', '5', '3', '6', ',', '0', ',', '0']) = .error .badOperands ∧
    assemble ['I', 'A', '_', 'P', 'A', 'C', 'K', ' ', '0'] = .error .unknownMnemonic := ⟨rfl, rfl⟩

/-! ## Witnesses: the hypotheses of each statement that has any can be met -/

theorem witness_UnreadSlotsHaveNoEffect :
    ∃ r r' : CommandRecord, r ≠ r' ∧ r.op = r'.op ∧ mnemonicOf r.op = some .gaUnpack ∧
      ∀ m, mnemonicOf r.op = some m → readSlots (formatOf m) r = readSlots (formatOf m) r' :=
  ⟨⟨0x02#8, 270#16, 0#16, 0#16, 0#8, [], []⟩, ⟨0x02#8, 270#16, 5#16, 6#16, 7#8, [1#8], []⟩, by decide, rfl, rfl,
    by rintro m ⟨⟩; rfl⟩

theorem witness_IllegalOpcodes :
    ∃ (s : State) (r : CommandRecord), s.inbox = .command r :: [] ∧
      r.op ∉ [0x01#8, 0x02#8, 0x03#8, 0x10#8, 0x11#8, 0x12#8, 0x13#8, 0x20#8, 0x30#8, 0x31#8] :=
  ⟨st Fbd.reset [.command (blankRecord 0x04#8)], blankRecord 0x04#8, rfl, by decide⟩

theorem witness_StepRunsTheDecodedCommand :
    ∃ (s : State) (r : CommandRecord) (i : Instr), s.inbox = .command r :: [] ∧ decode r = .ok i :=
  ⟨st Fbd.reset [.command (encode (.fbdPush 8#8))], _, .fbdPush 8#8, rfl, rfl⟩

theorem witness_StepWaits : (st ⟨.awaitLen, [0x00#8], 0#16⟩ []).inbox = [] := rfl

theorem witness_ResetInput :
    ∃ (s : State) (cut : Option CommandRecord) (rest : List HostInput),
      s.inbox = .reset cut :: rest ∧ s.fbd ≠ Fbd.reset :=
  ⟨st ⟨.awaitLen, [0x00#8], 0#16⟩ [.reset (some (encode .mkOpen)), .command (encode .mkOpen)], _, _, rfl, by decide⟩

theorem witness_OverlappingCommands :
    ∃ (s : State) (c₁ c₂ : CommandRecord), s.inbox = .overlap c₁ c₂ :: [] :=
  ⟨st Fbd.reset [.overlap (encode .mkOpen) (encode .fbdClear)], _, _, rfl⟩

theorem witness_BlockNeverStops :
    serialInputs (st Fbd.reset [.command (blankRecord 0xFF#8), .reset none]) ∧
    ∃ s : State, step s = .fault .overlappingCommands :=
  ⟨by decide, st Fbd.reset [.overlap (encode .mkOpen) (encode .fbdClear)], rfl⟩

theorem witness_DetectorInvariant :
    fbdInv (st ⟨.awaitBody, [0x00#8, 0x01#8], 1#16⟩ [.command (encode (.fbdPush 0#8))]).fbd ∧
    ∃ s', step (st ⟨.awaitBody, [0x00#8, 0x01#8], 1#16⟩ [.command (encode (.fbdPush 0#8))]) = .next s' :=
  ⟨by decide, _, rfl⟩

theorem witness_OneResponse :
    ∃ s t : State, s.fbd = t.fbd ∧ s ≠ t := ⟨st Fbd.reset [], st Fbd.reset [.reset none], rfl, by decide⟩

theorem witness_QueueOfCommands :
    ∃ (cs : List CommandRecord) (s : State), cs.length = 2 ∧ s.inbox = cs.map .command ++ [.reset none] ∧
      cs[0]? = some (encode (.fbdPush 0#8)) ∧ cs[1]? = some (blankRecord 0x00#8) ∧ s.fbd = Fbd.reset :=
  ⟨[encode (.fbdPush 0#8), blankRecord 0x00#8],
    st Fbd.reset [.command (encode (.fbdPush 0#8)), .command (blankRecord 0x00#8), .reset none],
    rfl, rfl, rfl, rfl, rfl⟩

/-- Every row's opcode byte, for the encoding clause of each command's statement. -/
theorem witness_opcodes :
    (encode (.gaPack 1#16 2#16 3#16)).op = 0x01#8 ∧ (encode (.gaUnpack 1#16)).op = 0x02#8 ∧
    (encode (.iaUnpack 1#16)).op = 0x03#8 ∧ (encode (.framePack 1#16 [])).op = 0x10#8 ∧
    (encode .mkOpen).op = 0x11#8 ∧ (encode (.mkWrite 1#16 1#8)).op = 0x12#8 ∧ (encode (.mkRead 1#16)).op = 0x13#8 ∧
    (encode (.frameDecode [])).op = 0x20#8 ∧ (encode (.fbdPush 1#8)).op = 0x30#8 ∧ (encode .fbdClear).op = 0x31#8 := by
  decide

theorem witness_GaPackMaskingLaw :
    (40#16).extractLsb' 0 5 = (8#16).extractLsb' 0 5 ∧ (9#16).extractLsb' 0 3 = (1#16).extractLsb' 0 3 ∧
    (300#16).extractLsb' 0 8 = (44#16).extractLsb' 0 8 := by decide

theorem witness_GroupAddressRoundTrips : (31#16).toNat ≤ 31 ∧ (7#16).toNat ≤ 7 ∧ (255#16).toNat ≤ 255 := by decide

theorem witness_FieldsSerialize : (0xFF#16 : Word).toNat ≤ 0xFF := by decide

theorem witness_FramePack_range :
    ∃ e ∈ [(⟨.u16, 0xFFFF#16⟩ : FieldEntry), ⟨.u8, 0x100#16⟩], e.w = .u8 ∧ 0xFF < e.val.toNat := by decide

theorem witness_FramePack_tooLarge :
    ∃ fl : List FieldEntry, (∀ e ∈ fl, e.w = .u8 → e.val.toNat ≤ 0xFF) ∧ 65535 < 2 + (fieldBytes fl).length := by
  refine ⟨List.replicate 32767 ⟨.u16, 0#16⟩, ?_, by rw [fieldBytes_replicate]; omega⟩
  intro e he
  rw [List.eq_of_mem_replicate he]
  nofun

theorem witness_FramePack_largest :
    ∃ fl : List FieldEntry, (∀ e ∈ fl, e.w = .u8 → e.val.toNat ≤ 0xFF) ∧ 2 + (fieldBytes fl).length = 65535 := by
  refine ⟨⟨.u8, 0xFF#16⟩ :: List.replicate 32766 ⟨.u16, 0#16⟩, ?_, ?_⟩
  · intro e he hw
    rcases List.mem_cons.mp he with rfl | he
    · decide
    · rw [List.eq_of_mem_replicate he] at hw
      cases hw
  · rw [fieldBytes_cons, List.length_append, fieldBytes_replicate]
    simp only [entryBytes, List.length_singleton]

theorem witness_FramePackLengthLaw :
    ∃ s : State, exec (.framePack 0x27#16 []) s =
      .next { s with responses := s.responses ++ [frameResponse [0x00#8, 0x02#8, 0x00#8, 0x27#8]] } :=
  ⟨State.reset, rfl⟩

theorem witness_MkWrite : (1#8 : Byte).toNat ≤ 1 ∧ 1 < (2#8 : Byte).toNat := by decide

/-- One frame for each outcome, and two sequences that are no frame. -/
theorem witness_FrameDecode :
    isFrame frameW6 ∧ decodeFrame frameW6 = .emit telegramW6 ∧
    isFrame [0x00#8, 0x00#8] ∧ decodeFrame [0x00#8, 0x00#8] = .discardShort ∧
    isFrame [0x00#8, 0x02#8, 0x00#8, 0x26#8] ∧ decodeFrame [0x00#8, 0x02#8, 0x00#8, 0x26#8] = .discardType ∧
    ¬ isFrame [0x00#8] ∧ ¬ isFrame (frameW6 ++ [0x00#8]) := by decide

/-- A frame for each discard condition at its boundary: 3 bytes; 4 bytes of another type; 9 bytes; 10 bytes. -/
theorem witness_Discards :
    isFrame [0x00#8, 0x01#8, 0x27#8] ∧
    isFrame [0x00#8, 0x02#8, 0x01#8, 0x27#8] ∧ be16 0x01#8 0x27#8 ≠ 0x0027#16 ∧
    isFrame [0x00#8, 0x07#8, 0x00#8, 0x27#8, 0x11#8, 0x08#8, 0x00#8, 0x14#8, 0x00#8] ∧
    be16 0x00#8 0x27#8 = 0x0027#16 ∧ isFrame frameW6 ∧ frameW6.length = 10 := by decide

/-- A packet with no data byte and one with a data byte. -/
theorem witness_GroupPacket :
    isFrame ([0x00#8, 0x08#8, 0x00#8, 0x27#8, 0x11#8, 0x08#8, 0x00#8, 0x14#8, 0xFF#8, 0xC1#8] ++ []) ∧
    isFrame ([0x00#8, 0x09#8, 0x00#8, 0x27#8, 0x11#8, 0x08#8, 0x00#8, 0x14#8, 0x00#8, 0x81#8] ++ [0x07#8]) := by
  decide

/-- FBD_PUSH's cases: the byte completes a frame that emits, one that is discarded (`00 00`, at its second byte), is the
second of a longer frame, or is the first. -/
theorem witness_FbdPush :
    (completes (fbdHolding (frameW6.take 9)) frameW6 ∧ decodeFrame frameW6 = .emit telegramW6) ∧
    (completes ⟨.awaitLen, [0x00#8], 0#16⟩ [0x00#8, 0x00#8] ∧ ∀ t, decodeFrame [0x00#8, 0x00#8] ≠ .emit t) ∧
    ¬ completes ⟨.awaitLen, [0x00#8], 0#16⟩ [0x00#8, 0x01#8] ∧ ¬ completes Fbd.reset [0x00#8] :=
  ⟨⟨by decide, by decide⟩, ⟨by decide, nofun⟩, by decide, by decide⟩

theorem witness_PushesOfAChunk :
    ∃ s : State, s.inbox = (feedRecords [0x00#8, 0x00#8]).map .command ++ [.reset none] :=
  ⟨st Fbd.reset [.command (encode (.fbdPush 0x00#8)), .command (encode (.fbdPush 0x00#8)), .reset none], rfl⟩

/-- The shortest frame, a telegram, and the longest prefixes of a frame of 2 bytes less one and of 3 bytes less one. -/
theorem witness_BackToBackFrames :
    (∀ f ∈ [[0x00#8, 0x00#8], frameW6], isFrame f) ∧ isFramePrefix [] ∧ isFramePrefix [0x00#8] ∧
    isFramePrefix [0x00#8, 0x01#8] := by decide

theorem witness_DiscardsAreNotSurfaced :
    (completes ⟨.awaitLen, [0x00#8], 0#16⟩ [0x00#8, 0x00#8] ∧ decodeFrame [0x00#8, 0x00#8] = .discardShort) ∧
    (completes ⟨.awaitBody, [0x00#8, 0x02#8, 0x00#8], 2#16⟩ [0x00#8, 0x02#8, 0x00#8, 0x26#8] ∧
      decodeFrame [0x00#8, 0x02#8, 0x00#8, 0x26#8] = .discardType) := by decide

theorem witness_DetectorAndFrameDecodeAgree :
    fbdInv (fbdHolding (frameW6.take 9)) ∧ completes (fbdHolding (frameW6.take 9)) frameW6 := by decide

theorem witness_LongestPrefix :
    (List.replicate 65534 (0#8 : Byte)).length < 65535 ∧ (List.replicate 65535 (0#8 : Byte)).length = 65535 := by
  rw [List.length_replicate, List.length_replicate]
  omega

theorem witness_StatelessUnits : unitOf (mnemonicOfInstr (.frameDecode [])) ≠ .fbd := by decide

theorem witness_Errors :
    ∃ (s s' : State) (r : Response), exec (.mkWrite 20#16 2#8) s = .next s' ∧
      s'.responses = s.responses ++ [r] ∧ r.status ≠ .ok :=
  ⟨State.reset, _, statusOnly .errFieldRange, rfl, rfl, by decide⟩

/-- One command for each status a command answers: OK, too large, out of range, no frame. -/
theorem witness_Statuses :
    (answerOf .mkOpen).map (·.status) = some .ok ∧
    (answerOf (.framePack 0#16 [⟨.u8, 0x100#16⟩])).map (·.status) = some .errFieldRange ∧
    (answerOf (.mkWrite 0#16 2#8)).map (·.status) = some .errFieldRange ∧
    (answerOf (.frameDecode [])).map (·.status) = some .errFrameLength := by decide

theorem witness_TooLarge :
    exec (.framePack 0#16 (List.replicate 32767 ⟨.u16, 0#16⟩)) State.reset =
      .next (State.reset.respond (statusOnly .errPayloadTooLarge)) := by
  have h : (List.replicate 32767 (⟨.u16, 0#16⟩ : FieldEntry)).all entryFits = true := by
    rw [List.all_eq_true]
    intro e he
    rw [List.eq_of_mem_replicate he]
    rfl
  show execFramePack _ _ _ = _
  unfold execFramePack
  rw [h, if_neg (by decide), frameBody_length, fieldBytes_replicate, if_neg (by decide), if_pos (by decide)]
  rfl

theorem witness_ResponseSlots :
    ∃ (s s' : State) (r : Response), exec (.frameDecode frameW6) s = .next s' ∧
      s'.responses = s.responses ++ [r] ∧ r.status = .ok ∧ r.tgValid = some true :=
  ⟨State.reset, _, decodeResponse (.emit telegramW6), rfl, rfl, rfl, rfl⟩

theorem witness_UndefinedSlots :
    ResponseSlot.tg ≠ .status ∧ ({ telegramW6 with value := .read } : Telegram).value = .read ∧
    telegramW6.value = .short 1 ∧ ({ telegramW6 with value := .raw [7#8] } : Telegram).value = .raw [7#8] := by decide

theorem witness_Instances :
    ∃ l', stepInstance 1 [State.reset, st Fbd.reset [.command (encode (.fbdPush 0#8))]] = some l' := ⟨_, rfl⟩

theorem witness_HostWord :
    (∃ t, GroupAddress.text ['4', '0', '/', '9', '/', '3', '0', '0'] = .text t ∧ parseGroupText t = .ok (40, 9, 300)) ∧
    GroupAddress.fields 40 9 300 = .fields 40 9 300 := ⟨⟨_, rfl, rfl⟩, rfl⟩

theorem witness_CanonicalText : printGroup 31 7 255 = ['3', '1', '/', '7', '/', '2', '5', '5'] := by decide

/-- `65535`, `0xFf`, the quoted `0/0/20`, `u8 7` and the hex bytes `1b FF` are spellings. -/
theorem witness_CommandLines :
    spellsNumber ['6', '5', '5', '3', '5'] (65535#16).toNat ∧ spellsNumber ['0', 'x', 'F', 'f'] (255#8).toNat ∧
    spellsGroupOperand ['"', '0', '/', '0', '/', '2', '0', '"'] 20#16 ∧
    List.Forall₂ spellsEntry [['u', '8', ' ', '7']] [⟨.u8, 7#16⟩] ∧
    List.Forall₂ spellsHexByte [['1', 'b'], ['F', 'F']] [0x1B#8, 0xFF#8] :=
  ⟨.inl ⟨[6, 5, 5, 3, 5], by decide, rfl, by decide⟩, .inr ⟨['F', 'f'], rfl, [15, 15], by decide, rfl, by decide⟩,
    .inr ⟨printGroup 0 0 20, rfl, rfl⟩,
    .cons ⟨['7'], .inl ⟨[7], by decide, rfl, by decide⟩, rfl⟩ .nil,
    .cons ⟨rfl, [1, 11], by decide, rfl, by decide⟩ (.cons ⟨rfl, [15, 15], by decide, rfl, by decide⟩ .nil)⟩

theorem witness_RefusedTexts :
    '"' ∉ ['0', '/', '1'] ∧ parseGroupText ['0', '/', '1'] = .error .errInvalidAddress := ⟨by decide, rfl⟩

theorem witness_GroupTexts :
    parseGroupText ['0', '/', '1'] = .error .errInvalidAddress ∧
    (∃ n, parseGroupText ['0', '/', '1', '/', '2'] = .ok n) := ⟨rfl, _, rfl⟩

/-- An address of each form, and one that is refused. -/
theorem witness_HostOperations :
    groupAddressWord (.text ['0', '/', '0', '/', '2', '0']) = .ok 20#16 ∧
    groupAddressPack (.text ['0', '/', '0', '/', '2', '0']) = .ok (.gaPack 0#16 0#16 20#16) ∧
    groupAddressWord (.fields 0 0 20) = .ok 20#16 ∧
    groupAddressPack (.fields 0 0 20) = .ok (.gaPack 0#16 0#16 20#16) ∧
    groupAddressWord (.text ['0', '/', '1']) = .error .errInvalidAddress := ⟨rfl, rfl, rfl, rfl, rfl⟩

end Sys2Proof.Tests
end

namespace Sys2Proof.Machine

/-! # What each command does to the detector, and the statements about the state (spec/10_state.md) -/

/-! ## What a command can do -/

theorem execFramePack_answers (a : Word) (fl : List FieldEntry) :
    ∃ r, ∀ s, execFramePack a fl s = .next (s.respond r) := by
  unfold execFramePack
  split_ifs <;> exact ⟨_, fun _ => rfl⟩

theorem execMkWrite_answers (a : Word) (d : Byte) : ∃ r, ∀ s, execMkWrite a d s = .next (s.respond r) := by
  unfold execMkWrite
  split_ifs <;> exact ⟨_, fun _ => rfl⟩

theorem execFrameDecode_answers (seq : Bytes) : ∃ r, ∀ s, execFrameDecode seq s = .next (s.respond r) := by
  unfold execFrameDecode
  split_ifs <;> exact ⟨_, fun _ => rfl⟩

/-- FBD_PUSH gives the detector and the response that `pushByte` gives, together (R45, R145). -/
theorem exec_fbdPush (d : Byte) (s : State) :
    exec (.fbdPush d) s = .next ((s.setFbd (pushByte s.fbd d).1).respond (pushByte s.fbd d).2) := rfl

/-- FBD_CLEAR gives the detector its reset values and answers with a status alone (R146). -/
theorem exec_fbdClear (s : State) :
    exec .fbdClear s = .next ((s.setFbd Fbd.reset).respond (statusOnly .ok)) := rfl

/-- What a command can do: outside the detector it gives a response that its operands fix, whatever the state, and
nothing else changes (R20, R50); the two commands of the detector are FBD_PUSH and FBD_CLEAR. -/
theorem exec_cases (i : Instr) :
    (∃ r, ∀ s, exec i s = .next (s.respond r)) ∨ (∃ d, i = .fbdPush d) ∨ i = .fbdClear := by
  cases i with
  | gaPack a b c => exact .inl ⟨_, fun _ => rfl⟩
  | gaUnpack a => exact .inl ⟨_, fun _ => rfl⟩
  | iaUnpack a => exact .inl ⟨_, fun _ => rfl⟩
  | framePack a fl => exact .inl (execFramePack_answers a fl)
  | mkOpen => exact .inl ⟨_, fun _ => rfl⟩
  | mkWrite a d => exact .inl (execMkWrite_answers a d)
  | mkRead a => exact .inl ⟨_, fun _ => rfl⟩
  | frameDecode seq => exact .inl (execFrameDecode_answers seq)
  | fbdPush d => exact .inr (.inl ⟨d, rfl⟩)
  | fbdClear => exact .inr (.inr rfl)

/-- Every command completes, and the detector it finds fixes the detector it leaves and its one response (R24, R83). -/
theorem exec_responds (i : Instr) (f : Fbd) :
    ∃ f' r, ∀ s : State, s.fbd = f → exec i s = .next ((s.setFbd f').respond r) := by
  obtain ⟨r, hr⟩ | ⟨d, rfl⟩ | rfl := exec_cases i
  · refine ⟨f, r, ?_⟩
    rintro s rfl
    rw [setFbd_self, hr]
  · refine ⟨(pushByte f d).1, (pushByte f d).2, ?_⟩
    rintro s rfl
    exact exec_fbdPush d s
  · exact ⟨Fbd.reset, statusOnly .ok, fun s _ => exec_fbdClear s⟩

/-! ## What a step can do to the detector -/

theorem exec_next_fbd {i : Instr} {s s' : State} (h : exec i s = .next s') :
    s'.fbd = s.fbd ∨ s'.fbd = Fbd.reset ∨ ∃ d, s'.fbd = (pushByte s.fbd d).1 := by
  obtain ⟨r, hr⟩ | ⟨d, rfl⟩ | rfl := exec_cases i
  · rw [hr] at h
    cases h
    exact .inl rfl
  · cases h
    exact .inr (.inr ⟨d, rfl⟩)
  · cases h
    exact .inr (.inl rfl)

theorem runRecord_next_fbd {c : CommandRecord} {s s' : State} (h : runRecord c s = .next s') :
    s'.fbd = s.fbd ∨ s'.fbd = Fbd.reset ∨ ∃ d, s'.fbd = (pushByte s.fbd d).1 := by
  obtain ⟨i, -, hrun⟩ | ⟨-, hrun⟩ := runRecord_cases c s
  · exact exec_next_fbd (hrun ▸ h)
  · rw [hrun] at h
    cases h
    exact .inl rfl

/-- A step leaves the detector, resets it, or gives it one stream byte. -/
theorem step_next_fbd {s s' : State} (h : step s = .next s') :
    s'.fbd = s.fbd ∨ s'.fbd = Fbd.reset ∨ ∃ d, s'.fbd = (pushByte s.fbd d).1 := by
  obtain ⟨-, hstep⟩ | ⟨c, rest, -, hstep⟩ | ⟨cut, rest, -, hstep⟩ | ⟨c₁, c₂, rest, -, hstep⟩ := step_cases s
  all_goals rw [hstep] at h
  · cases h
    exact .inl rfl
  · exact runRecord_next_fbd (s := s.setInbox rest) h
  · cases h
    exact .inr (.inl rfl)
  · cases h

/-! ## The detector's invariant (R27) -/

/-- The two states R27 allows: fewer than two bytes, or the two length bytes and a body that is not complete. -/
theorem fbdInv_iff (f : Fbd) :
    fbdInv f ↔
      (f.st = .awaitLen ∧ f.buf.length < 2 ∧ f.len = 0#16) ∨
      (f.st = .awaitBody ∧ f.len = declaredLen f.buf ∧ 2 ≤ f.buf.length ∧ f.buf.length < f.len.toNat + 2) := by
  unfold fbdInv
  cases f.st with
  | awaitLen => simp
  | awaitBody =>
    simp only [reduceCtorEq, false_iff, not_lt, false_implies, forall_const, true_and, false_and, false_or,
      and_iff_right_iff_imp]
    exact fun ⟨_, hhead, _⟩ => hhead

theorem fbdInv_reset : fbdInv Fbd.reset := by decide

theorem declaredLen_append (s t : Bytes) (h : 2 ≤ s.length) : declaredLen (s ++ t) = declaredLen s :=
  wordAt_append s t 0 h

/-- From a state R27 allows, a byte leaves the length bytes incomplete, or the declared length is that of the bytes held
and they are at most the frame. The second case takes in the byte that completes the frame. -/
theorem pushed_cases {f : Fbd} (h : fbdInv f) (d : Byte) :
    (pushedSt f (f.buf ++ [d]) = .awaitLen ∧ (f.buf ++ [d]).length < 2 ∧ pushedLen f (f.buf ++ [d]) = 0#16) ∨
    (pushedSt f (f.buf ++ [d]) = .awaitBody ∧ pushedLen f (f.buf ++ [d]) = declaredLen (f.buf ++ [d]) ∧
      2 ≤ (f.buf ++ [d]).length ∧ (f.buf ++ [d]).length ≤ (pushedLen f (f.buf ++ [d])).toNat + 2) := by
  have hlen : (f.buf ++ [d]).length = f.buf.length + 1 := List.length_append
  unfold pushedSt pushedLen
  by_cases htwo : (f.buf ++ [d]).length = 2
  · rw [if_pos htwo, if_pos htwo]
    exact .inr ⟨rfl, rfl, by omega, by omega⟩
  · rw [if_neg htwo, if_neg htwo]
    obtain ⟨hst, hbuf, hzero⟩ | ⟨hst, hdecl, hhead, hbody⟩ := (fbdInv_iff f).mp h
    · exact .inl ⟨hst, by omega, hzero⟩
    · exact .inr ⟨hst, by rw [declaredLen_append _ _ hhead, hdecl], by omega, by omega⟩

/-- One stream byte keeps the invariant: a byte that completes the frame resets the detector, and one that does not
leaves strictly less than the frame. -/
theorem fbdInv_pushByte {f : Fbd} (h : fbdInv f) (d : Byte) : fbdInv (pushByte f d).1 := by
  obtain ⟨-, hpush⟩ | ⟨hnot, hpush⟩ := pushByte_cases f d
  · rw [hpush]
    exact fbdInv_reset
  · rw [hpush, fbdInv_iff]
    obtain hlen | ⟨hst, hdecl, hhead, hle⟩ := pushed_cases h d
    · exact .inl hlen
    · exact .inr ⟨hst, hdecl, hhead, hle.lt_of_ne fun heq => hnot ⟨hst, heq⟩⟩

theorem step_preserves_fbdInv {s s' : State} (hinv : fbdInv s.fbd) (h : step s = .next s') : fbdInv s'.fbd := by
  obtain hkept | hreset | ⟨d, hpush⟩ := step_next_fbd h
  · rwa [hkept]
  · rw [hreset]
    exact fbdInv_reset
  · rw [hpush]
    exact fbdInv_pushByte hinv d

/-- Between commands the buffer holds at most a frame of the greatest length less one byte. -/
theorem buf_length_le_of_fbdInv {f : Fbd} (h : fbdInv f) : f.buf.length ≤ 65536 := by
  have hmax := f.len.isLt
  obtain ⟨-, hbuf, -⟩ | ⟨-, -, -, hbody⟩ := (fbdInv_iff f).mp h <;> omega

/-- Within FBD_PUSH the buffer holds at most the frame of the declared length. -/
theorem pushed_length_le {f : Fbd} (h : fbdInv f) (d : Byte) :
    (f.buf ++ [d]).length ≤ (pushedLen f (f.buf ++ [d])).toNat + 2 := by
  obtain ⟨-, hlt, -⟩ | ⟨-, -, -, hle⟩ := pushed_cases h d <;> omega

theorem toNat_add_two_le_fbdCap (l : Word) : l.toNat + 2 ≤ Config.fbdCap := by
  have hmax := l.isLt
  unfold Config.fbdCap
  omega

/-- Settles O11, by `step_next_fbd`: of the three things a step can do to the detector, only the stream byte needs an
argument, `fbdInv_pushByte`. -/
theorem everyStepKeepsTheDetectorInvariant : Obligations.EveryStepKeepsTheDetectorInvariant := fun _ hinv =>
  ⟨fun _ => step_preserves_fbdInv hinv, buf_length_le_of_fbdInv hinv,
    fun d => ⟨pushed_length_le hinv d, toNat_add_two_le_fbdCap _⟩⟩

/-- Settles O12. -/
theorem resetStateMeetsTheDetectorInvariant : Obligations.ResetStateMeetsTheDetectorInvariant := fbdInv_reset

/-- Settles O13, by `exec_responds` on the detector that the two states share. -/
theorem oneResponseFromOperandsAndDetectorAlone : Obligations.OneResponseFromOperandsAndDetectorAlone := by
  intro i s t hst
  obtain ⟨f, r, hexec⟩ := exec_responds i t.fbd
  exact ⟨f, r, hexec s hst, hexec t rfl⟩

/-- Settles O8, by the equation of FBD_CLEAR. -/
theorem resetValuesAsGiven : Obligations.ResetValuesAsGiven :=
  ⟨reset_fbd, fun s => ⟨_, exec_fbdClear s, rfl⟩⟩

/-! ## The host's reads of undefined slots (R21, R84) -/

theorem readSlot_statusOnly (e : Status) {x : ResponseSlot} (h : x ≠ .status) :
    readSlot (statusOnly e) x = .error (.undefinedSlot x) := by
  cases x with
  | status => exact absurd rfl h
  | r0 | r1 | r2 | rseq | outcome | frameDone | tgValid | tg => rfl

theorem readShort_of_short {t : Telegram} {v : BitVec 6} (h : t.value = .short v) : readShort t = .ok v := by
  simp only [readShort, h]

theorem readShort_of_not_short {t : Telegram} (h : ∀ v, t.value ≠ .short v) :
    readShort t = .error .undefinedShort := by
  unfold readShort
  cases hv : t.value with
  | short v => exact absurd hv (h v)
  | read | raw => rfl

theorem readRaw_of_raw {t : Telegram} {b : Bytes} (h : t.value = .raw b) : readRaw t = .ok b := by
  simp only [readRaw, h]

theorem readRaw_of_not_raw {t : Telegram} (h : ∀ b, t.value ≠ .raw b) : readRaw t = .error .undefinedRaw := by
  unfold readRaw
  cases hv : t.value with
  | raw b => exact absurd hv (h b)
  | read | short => rfl

/-- Settles O46, slot by slot, and for a telegram by its kind: each kind defines one value slot at most. -/
theorem undefinedSlotsFaultWhenRead : Obligations.UndefinedSlotsFaultWhenRead := by
  refine ⟨fun e x => readSlot_statusOnly e, fun t => ⟨fun h => ?_, fun v h => ?_, fun b h => ?_⟩⟩
  · exact ⟨readShort_of_not_short (by simp [h]), readRaw_of_not_raw (by simp [h])⟩
  · exact ⟨readShort_of_short h, readRaw_of_not_raw (by simp [h])⟩
  · exact ⟨readShort_of_not_short (by simp [h]), readRaw_of_raw h⟩

/-! ## Several instances (R30) -/

/-- What `stepInstance` answers: the list with the next state of number `k` in its place, and only if there is one. -/
theorem stepInstance_eq_some {k : Nat} {l l' : List State} :
    stepInstance k l = some l' ↔ ∃ s s', l[k]? = some s ∧ step s = .next s' ∧ l' = l.set k s' := by
  unfold stepInstance
  cases hk : l[k]? with
  | none => simp
  | some s => cases hstep : step s <;> simp [hstep, eq_comm]

/-- Settles O48, by `stepInstance_eq_some` and the library's laws of `List.set`. -/
theorem instancesAreIndependent : Obligations.InstancesAreIndependent := by
  intro k l l' h
  obtain ⟨s, s', hs, hstep, rfl⟩ := stepInstance_eq_some.mp h
  have hk : k < l.length := (List.getElem?_eq_some_iff.mp hs).1
  exact ⟨List.length_set, fun j hj => List.getElem?_set_ne hj.symm, s, s', hs, hstep, List.getElem?_set_self hk⟩

end Sys2Proof.Machine

namespace Sys2Proof.Machine

/-! # Records one after another, and what repeating a command does (spec/20_memory.md) -/

/-! ## One record -/

/-- With a record at the head of the inbox, the step takes it and runs it. -/
theorem step_of_command {s : State} {c : CommandRecord} {rest : List HostInput} (h : s.inbox = .command c :: rest) :
    step s = runRecord c (s.setInbox rest) := by
  simp only [step, h]

/-- A legal record runs the command it decodes to. -/
theorem runRecord_of_decode {c : CommandRecord} {i : Instr} (h : decode c = .ok i) (s : State) :
    runRecord c s = exec i s := by
  simp only [runRecord, h]

/-- An illegal record is answered with `ERR_ILLEGAL_OP` (R82). -/
theorem runRecord_of_decode_error {c : CommandRecord} {e : DecodeError} (h : decode c = .error e) (s : State) :
    runRecord c s = .next (s.respond (statusOnly .errIllegalOp)) := by
  obtain ⟨i, hok, -⟩ | ⟨-, hrun⟩ := runRecord_cases c s
  · exact absurd (h.symm.trans hok) nofun
  · exact hrun

/-- Every record completes, legal or not, and the detector it finds fixes the detector it leaves and its one answer
(R24, R46, R82). -/
theorem runRecord_responds (c : CommandRecord) (f : Fbd) :
    ∃ f' r, ∀ s : State, s.fbd = f → runRecord c s = .next ((s.setFbd f').respond r) := by
  cases hdec : decode c with
  | ok i =>
    obtain ⟨f', r, hexec⟩ := exec_responds i f
    exact ⟨f', r, fun s hs => (runRecord_of_decode hdec s).trans (hexec s hs)⟩
  | error e =>
    refine ⟨f, statusOnly .errIllegalOp, ?_⟩
    rintro s rfl
    rw [setFbd_self, runRecord_of_decode_error hdec]

/-- Settles O5. -/
theorem stepRunsTheDecodedCommand : Obligations.StepRunsTheDecodedCommand := fun _ _ _ _ hinbox hdec =>
  (step_of_command hinbox).trans (runRecord_of_decode hdec _)

/-! ## A queue of records (R46) -/

/-- The run of no steps, in the form that the run of `k` steps has. -/
theorem runSteps_zero_of_inbox {s : State} {l : List HostInput} (h : s.inbox = l) :
    runSteps 0 s = .next { fbd := s.fbd, inbox := l, responses := s.responses ++ [] } := by
  rw [← h, List.append_nil]
  rfl

/-- The numbered detectors or answers of a queue, from those of its first record and of the records after it. -/
def numberedFrom {α : Type} (a : α) (later : Nat → α) : Nat → α
  | 0 => a
  | k + 1 => later k

theorem map_numberedFrom_range_succ {α : Type} (a : α) (later : Nat → α) (k : Nat) :
    (List.range (k + 1)).map (numberedFrom a later) = a :: (List.range k).map later := by
  rw [List.range_succ_eq_map, List.map_cons, List.map_map]
  rfl

/-- Settles O14, by induction on the records: the first one takes a step and leaves the state from which the others run,
so their detectors and answers come after its own. -/
theorem queueOfCommandsIsAnsweredInOrder : Obligations.QueueOfCommandsIsAnsweredInOrder := by
  intro cs
  induction cs with
  | nil =>
    intro s rest hinbox
    refine ⟨fun _ => s.fbd, fun _ => statusOnly .ok, rfl, nofun, fun k hk => ?_⟩
    obtain rfl := Nat.le_zero.mp hk
    exact runSteps_zero_of_inbox hinbox
  | cons c cs ih =>
    intro s rest hinbox
    obtain ⟨f₁, r₁, hrun⟩ := runRecord_responds c s.fbd
    have hstep : step s = .next (((s.setInbox (cs.map .command ++ rest)).setFbd f₁).respond r₁) :=
      (step_of_command hinbox).trans (hrun _ rfl)
    obtain ⟨f, r, hhead, hanswers, hruns⟩ := ih (((s.setInbox _).setFbd f₁).respond r₁) rest rfl
    refine ⟨numberedFrom s.fbd f, numberedFrom r₁ r, rfl, fun k c' hc t ht => ?_, fun k hk => ?_⟩
    · cases k with
      | zero =>
        obtain rfl : c = c' := Option.some.inj hc
        obtain rfl : f 0 = f₁ := hhead
        exact hrun t ht
      | succ k => exact hanswers k c' hc t ht
    · cases k with
      | zero => exact runSteps_zero_of_inbox hinbox
      | succ k =>
        rw [runSteps_succ_of_next k _ _ hstep, hruns k (Nat.le_of_succ_le_succ hk), map_numberedFrom_range_succ,
          respond_responses, List.append_assoc]
        rfl

/-! ## Repeating a command (R20, R50) -/

/-- A command of a stateless unit gives a response that its operands fix, whatever the state, and nothing else. -/
theorem exec_of_unitOf_ne_fbd {i : Instr} (h : unitOf (mnemonicOfInstr i) ≠ .fbd) :
    ∃ r, ∀ s, exec i s = .next (s.respond r) := by
  obtain hanswers | ⟨d, rfl⟩ | rfl := exec_cases i
  · exact hanswers
  · exact absurd rfl h
  · exact absurd rfl h

theorem respond_respond (s : State) (r r' : Response) :
    (s.respond r).respond r' = { s with responses := s.responses ++ [r, r'] } := by
  simp [State.respond]

/-- The first byte of a frame is held alone, and the same byte again is the second. -/
theorem fbdPush_not_idempotent :
    (pushByte (pushByte Fbd.reset 0x01#8).1 0x01#8).1 ≠ (pushByte Fbd.reset 0x01#8).1 := by decide

/-- Settles O42: the stateless units by `exec_of_unitOf_ne_fbd`, FBD_CLEAR by its equation, and FBD_PUSH by the byte 0x01
pushed twice from reset. -/
theorem statelessUnitsAndIdempotency : Obligations.StatelessUnitsAndIdempotency := by
  refine ⟨fun i s hunit => ?_, fun s => ⟨_, _, exec_fbdClear s, exec_fbdClear _, rfl⟩, ?_⟩
  · obtain ⟨r, hexec⟩ := exec_of_unitOf_ne_fbd hunit
    exact ⟨r, hexec s, (hexec (s.respond r)).trans (congrArg _ (respond_respond s r r))⟩
  · exact ⟨0x01#8, State.reset, _, _, exec_fbdPush _ _, exec_fbdPush _ _, fbdPush_not_idempotent⟩

end Sys2Proof.Machine

namespace Sys2Proof.Machine

/-! # Records, commands and responses (spec/30_encoding.md R80 to R87) -/

/-! ## The decoder as a relation between records and commands -/

/-- No row has an opcode exactly when it is none of the ten bytes (R82). -/
theorem mnemonicOf_eq_none (op : Byte) : mnemonicOf op = none ↔ op ∉ allMnemonics.map opcodeByte := by
  simp [mnemonicOf, List.find?_eq_none]

@[simp] theorem mnemonicOfInstr_instrOf (m : Mnemonic) (r : CommandRecord) : mnemonicOfInstr (instrOf m r) = m := by
  cases m <;> rfl

/-- The operands of an encoded command are the command's own. -/
theorem instrOf_encode (i : Instr) : instrOf (mnemonicOfInstr i) (encode i) = i := by
  cases i <;> rfl

/-- A row's command takes nothing from the slots outside the row's format (R80). -/
theorem instrOf_readSlots (m : Mnemonic) (r : CommandRecord) :
    instrOf m (readSlots (formatOf m) r) = instrOf m r := by
  cases m <;> rfl

@[simp] theorem readSlots_op (fmt : Format) (r : CommandRecord) : (readSlots fmt r).op = r.op := by
  cases fmt <;> rfl

/-- What a row's format reads of a record with the row's opcode is the encoding of the row's command. -/
theorem readSlots_eq_encode {m : Mnemonic} {r : CommandRecord} (h : r.op = opcodeByte m) :
    readSlots (formatOf m) r = encode (instrOf m r) := by
  obtain ⟨op, a, b, c, d, seq, fl⟩ := r
  obtain rfl : op = opcodeByte m := h
  cases m <;> rfl

theorem encodesInItsFormat : ∀ i : Instr, Laws.EncodesInItsFormat.Statement i
  | .gaPack a b c => Laws.EncodesInItsFormat.gaPack a b c
  | .gaUnpack a => Laws.EncodesInItsFormat.gaUnpack a
  | .iaUnpack a => Laws.EncodesInItsFormat.iaUnpack a
  | .framePack a fl => Laws.EncodesInItsFormat.framePack a fl
  | .mkOpen => Laws.EncodesInItsFormat.mkOpen
  | .mkWrite a d => Laws.EncodesInItsFormat.mkWrite a d
  | .mkRead a => Laws.EncodesInItsFormat.mkRead a
  | .frameDecode seq => Laws.EncodesInItsFormat.frameDecode seq
  | .fbdPush d => Laws.EncodesInItsFormat.fbdPush d
  | .fbdClear => Laws.EncodesInItsFormat.fbdClear

theorem encode_op (i : Instr) : (encode i).op = opcodeByte (mnemonicOfInstr i) := (encodesInItsFormat i).1

/-- A record with a row's opcode decodes to the row's command on its slots (R81). -/
theorem decode_of_op {r : CommandRecord} {m : Mnemonic} (h : r.op = opcodeByte m) : decode r = .ok (instrOf m r) := by
  simp only [decode, h, mnemonicOf_opcodeByte]

/-- A record decodes only by the row of its opcode. -/
theorem decode_eq_ok {r : CommandRecord} {i : Instr} :
    decode r = .ok i ↔ r.op = opcodeByte (mnemonicOfInstr i) ∧ instrOf (mnemonicOfInstr i) r = i := by
  constructor
  · intro h
    cases hm : mnemonicOf r.op with
    | none => simp [decode, hm] at h
    | some m =>
      have hop := (mnemonicOf_eq_some r.op m).mp hm
      obtain rfl : instrOf m r = i := Except.ok.inj ((decode_of_op hop).symm.trans h)
      rw [mnemonicOfInstr_instrOf]
      exact ⟨hop, rfl⟩
  · rintro ⟨hop, hi⟩
    rw [decode_of_op hop, hi]

theorem decode_of_mnemonicOf_eq_none {r : CommandRecord} (h : mnemonicOf r.op = none) :
    decode r = .error (.illegalOp r.op) := by
  simp only [decode, h]

theorem decode_encode (i : Instr) : decode (encode i) = .ok i :=
  decode_eq_ok.mpr ⟨encode_op i, instrOf_encode i⟩

theorem encode_injective {i j : Instr} (h : encode i = encode j) : i = j :=
  Except.ok.inj (by rw [← decode_encode i, h, decode_encode])

/-- Settles O2, by `decode_encode`; for a record, both sides fix its opcode, and then what its format reads is the
encoding of the row's command, `readSlots_eq_encode`. -/
theorem recordsAndCommandsRoundTrip : Obligations.RecordsAndCommandsRoundTrip := by
  refine ⟨decode_encode, fun r i => ⟨fun h => ?_, fun h => ?_⟩⟩
  · obtain ⟨hop, hi⟩ := decode_eq_ok.mp h
    rw [readSlots_eq_encode hop, hi]
  · have hop : r.op = opcodeByte (mnemonicOfInstr i) := by
      simpa [encode_op] using congrArg CommandRecord.op h
    rw [readSlots_eq_encode hop] at h
    exact decode_eq_ok.mpr ⟨hop, encode_injective h⟩

/-- Settles O3: a row's command is made of what its format reads, and an illegal record is answered by its opcode
alone. -/
theorem unreadSlotsHaveNoEffect : Obligations.UnreadSlotsHaveNoEffect := by
  intro s rest r r' hop hread
  have hdecode : decode r = decode r' := by
    cases hm : mnemonicOf r.op with
    | none => rw [decode_of_mnemonicOf_eq_none hm, decode_of_mnemonicOf_eq_none (hop ▸ hm), hop]
    | some m =>
      have hopm := (mnemonicOf_eq_some r.op m).mp hm
      rw [decode_of_op hopm, decode_of_op (hop ▸ hopm), ← instrOf_readSlots m r, hread m hm, instrOf_readSlots]
  rw [step_of_command rfl, step_of_command rfl, runRecord, runRecord, hdecode]
  rfl

/-- Settles O4, by `mnemonicOf_eq_none`: such an opcode has no row. -/
theorem illegalOpcodesAreAnsweredAndChangeNothing : Obligations.IllegalOpcodesAreAnsweredAndChangeNothing := by
  refine ⟨fun s r rest hinbox hop => ?_, by decide⟩
  have hdecode := decode_of_mnemonicOf_eq_none ((mnemonicOf_eq_none r.op).mpr hop)
  exact ⟨hdecode, (step_of_command hinbox).trans (runRecord_of_decode_error hdecode _)⟩

/-- Settles O1, by `decode_of_op` for each row. -/
theorem opcodeMapDecodesEveryRow : Obligations.OpcodeMapDecodesEveryRow := fun _ _ _ _ _ _ =>
  ⟨decode_of_op (m := .gaPack) rfl, decode_of_op (m := .gaUnpack) rfl, decode_of_op (m := .iaUnpack) rfl,
    decode_of_op (m := .framePack) rfl, decode_of_op (m := .mkOpen) rfl, decode_of_op (m := .mkWrite) rfl,
    decode_of_op (m := .mkRead) rfl, decode_of_op (m := .frameDecode) rfl, decode_of_op (m := .fbdPush) rfl,
    decode_of_op (m := .fbdClear) rfl⟩

/-! ## The response a command gives (R83) -/

/-- `r` has the form of the OK response of row `m`: one of the responses of Machine/Flags.lean. -/
inductive OkResponse : Mnemonic → Response → Prop
  | gaPack (w : Word) : OkResponse .gaPack (wordResponse w)
  | gaUnpack (w0 w1 w2 : Word) : OkResponse .gaUnpack (wordsResponse w0 w1 w2)
  | iaUnpack (w0 w1 w2 : Word) : OkResponse .iaUnpack (wordsResponse w0 w1 w2)
  | framePack (f : Bytes) : OkResponse .framePack (frameResponse f)
  | mkOpen (f : Bytes) : OkResponse .mkOpen (frameResponse f)
  | mkWrite (f : Bytes) : OkResponse .mkWrite (frameResponse f)
  | mkRead (f : Bytes) : OkResponse .mkRead (frameResponse f)
  | frameDecode (o : Decoded) : OkResponse .frameDecode (decodeResponse o)
  | fbdPushDone (o : Decoded) : OkResponse .fbdPush (doneResponse o)
  | fbdPushPending : OkResponse .fbdPush pendingResponse
  | fbdClear : OkResponse .fbdClear (statusOnly .ok)

theorem OkResponse.status_eq_ok {m : Mnemonic} {r : Response} (h : OkResponse m r) : r.status = .ok := by
  cases h <;> rfl

/-- Every command answers with its row's OK response, or with an error status alone. -/
theorem exec_response_form (i : Instr) (s : State) :
    ∃ f r, exec i s = .next ((s.setFbd f).respond r) ∧
      (OkResponse (mnemonicOfInstr i) r ∨ ∃ e, e ≠ .ok ∧ r = statusOnly e) := by
  cases i with
  | gaPack a b c => exact ⟨s.fbd, _, rfl, .inl (.gaPack _)⟩
  | gaUnpack a => exact ⟨s.fbd, _, rfl, .inl (.gaUnpack _ _ _)⟩
  | iaUnpack a => exact ⟨s.fbd, _, rfl, .inl (.iaUnpack _ _ _)⟩
  | framePack a fl =>
    simp only [exec, execFramePack]
    split_ifs
    · exact ⟨s.fbd, _, rfl, .inr ⟨.errFieldRange, nofun, rfl⟩⟩
    · exact ⟨s.fbd, _, rfl, .inr ⟨.errPayloadTooSmall, nofun, rfl⟩⟩
    · exact ⟨s.fbd, _, rfl, .inr ⟨.errPayloadTooLarge, nofun, rfl⟩⟩
    · exact ⟨s.fbd, _, rfl, .inl (.framePack _)⟩
  | mkOpen => exact ⟨s.fbd, _, rfl, .inl (.mkOpen _)⟩
  | mkWrite a d =>
    simp only [exec, execMkWrite]
    split_ifs
    · exact ⟨s.fbd, _, rfl, .inr ⟨.errFieldRange, nofun, rfl⟩⟩
    · exact ⟨s.fbd, _, rfl, .inl (.mkWrite _)⟩
  | mkRead a => exact ⟨s.fbd, _, rfl, .inl (.mkRead _)⟩
  | frameDecode seq =>
    simp only [exec, execFrameDecode]
    split_ifs
    · exact ⟨s.fbd, _, rfl, .inl (.frameDecode _)⟩
    · exact ⟨s.fbd, _, rfl, .inr ⟨.errFrameLength, nofun, rfl⟩⟩
  | fbdPush d =>
    refine ⟨_, _, exec_fbdPush d s, .inl ?_⟩
    obtain ⟨-, hpush⟩ | ⟨-, hpush⟩ := pushByte_cases s.fbd d
    · rw [hpush]
      exact .fbdPushDone _
    · rw [hpush]
      exact .fbdPushPending
  | fbdClear => exact ⟨_, _, exec_fbdClear s, .inl .fbdClear⟩

/-- The form of the one response that a command adds to those given. -/
theorem response_form {i : Instr} {s s' : State} {r : Response} (h : exec i s = .next s')
    (hr : s'.responses = s.responses ++ [r]) :
    OkResponse (mnemonicOfInstr i) r ∨ ∃ e, e ≠ .ok ∧ r = statusOnly e := by
  obtain ⟨f, r', hexec, hform⟩ := exec_response_form i s
  obtain rfl : (s.setFbd f).respond r' = s' := Host.Outcome.next.inj (hexec.symm.trans h)
  obtain rfl : r' = r := by simpa using hr
  exact hform

/-! ## The slots a response defines (R83) -/

@[simp] theorem slotOr_isOk (x : ResponseSlot) (o : Option SlotValue) : (slotOr x o).isOk = o.isSome := by
  cases o <;> rfl

/-- The host's read answers a value exactly where the record's slot holds one. -/
theorem definesSlot_eq (r : Response) (x : ResponseSlot) :
    definesSlot r x = match x with
      | .status => true
      | .r0 => r.r0.isSome
      | .r1 => r.r1.isSome
      | .r2 => r.r2.isSome
      | .rseq => r.rseq.isSome
      | .outcome => r.outcome.isSome
      | .frameDone => r.frameDone.isSome
      | .tgValid => r.tgValid.isSome
      | .tg => r.tg.isSome := by
  cases x <;> simp [definesSlot, readSlot]

theorem definesSlot_statusOnly (e : Status) (x : ResponseSlot) : definesSlot (statusOnly e) x = true ↔ x = .status := by
  cases x <;> simp [definesSlot_eq, statusOnly]

theorem definesSlot_wordResponse (w : Word) (x : ResponseSlot) :
    definesSlot (wordResponse w) x = true ↔ x ∈ [.status, .r0] := by
  cases x <;> simp [definesSlot_eq, wordResponse, statusOnly]

theorem definesSlot_wordsResponse (w0 w1 w2 : Word) (x : ResponseSlot) :
    definesSlot (wordsResponse w0 w1 w2) x = true ↔ x ∈ [.status, .r0, .r1, .r2] := by
  cases x <;> simp [definesSlot_eq, wordsResponse, statusOnly]

theorem definesSlot_frameResponse (f : Bytes) (x : ResponseSlot) :
    definesSlot (frameResponse f) x = true ↔ x ∈ [.status, .rseq] := by
  cases x <;> simp [definesSlot_eq, frameResponse, statusOnly]

theorem definesSlot_decodeResponse (o : Decoded) (x : ResponseSlot) :
    definesSlot (decodeResponse o) x = true ↔
      x ∈ [.status, .outcome, .tgValid] ∨ (x = .tg ∧ (decodeResponse o).tgValid = some true) := by
  cases x <;> simp [definesSlot_eq, decodeResponse, statusOnly]

theorem definesSlot_doneResponse (o : Decoded) (x : ResponseSlot) :
    definesSlot (doneResponse o) x = true ↔
      x ∈ [.status, .frameDone, .tgValid] ∨ (x = .tg ∧ (doneResponse o).tgValid = some true) := by
  cases x <;> simp [definesSlot_eq, doneResponse, statusOnly]

theorem definesSlot_pendingResponse (x : ResponseSlot) :
    definesSlot pendingResponse x = true ↔ x ∈ [.status, .frameDone, .tgValid] := by
  cases x <;> simp [definesSlot_eq, pendingResponse, statusOnly]

theorem status_mem_okSlots (m : Mnemonic) : .status ∈ okSlots m := by
  cases m <;> exact List.mem_cons_self

/-- A response with status OK defines the slots of its row, and `tg` where it says so. -/
theorem OkResponse.definesSlot_iff {m : Mnemonic} {r : Response} (h : OkResponse m r) (x : ResponseSlot) :
    definesSlot r x = true ↔ x ∈ okSlots m ∨ (x = .tg ∧ r.tgValid = some true) := by
  cases h with
  | gaPack w => exact (definesSlot_wordResponse w x).trans (or_iff_left nofun).symm
  | gaUnpack w0 w1 w2 | iaUnpack w0 w1 w2 =>
    exact (definesSlot_wordsResponse w0 w1 w2 x).trans (or_iff_left nofun).symm
  | framePack f | mkOpen f | mkWrite f | mkRead f =>
    exact (definesSlot_frameResponse f x).trans (or_iff_left nofun).symm
  | frameDecode o => exact definesSlot_decodeResponse o x
  | fbdPushDone o => exact definesSlot_doneResponse o x
  | fbdPushPending => exact (definesSlot_pendingResponse x).trans (or_iff_left nofun).symm
  | fbdClear => exact (definesSlot_statusOnly .ok x).trans (by simp [okSlots, statusOnly])

/-- Settles O45, by `response_form`: the response is the OK response of its row, or an error status alone. -/
theorem responseDefinesExactlyItsSlots : Obligations.ResponseDefinesExactlyItsSlots := by
  intro i s s' r h hr x
  obtain hok | ⟨e, he, rfl⟩ := response_form h hr
  · have hstatus := status_mem_okSlots (mnemonicOfInstr i)
    rw [hok.definesSlot_iff]
    constructor
    · exact fun hx => .inr ⟨hok.status_eq_ok, hx⟩
    · rintro (rfl | ⟨-, hx⟩)
      · exact .inl hstatus
      · exact hx
  · rw [definesSlot_statusOnly]
    exact ⟨.inl, fun hx => hx.resolve_right fun hstatus => he hstatus.1⟩

/-- Settles O47, code by code. -/
theorem codesAsGiven : Obligations.CodesAsGiven := by
  refine ⟨rfl, fun e => ?_, rfl, fun o => ?_, ⟨rfl, fun _ => rfl, fun _ => rfl⟩, rfl, rfl⟩
  · cases e <;> decide
  · cases o <;> decide

/-- Settles O53. -/
theorem hostValuesAsGiven : Obligations.HostValuesAsGiven :=
  ⟨rfl, fun v => ⟨v.toNat, rfl, rfl, by omega, by omega⟩, fun _ => rfl⟩

end Sys2Proof.Machine

namespace Sys2Proof.Machine

/-! # The host's addresses and operations (spec/30_encoding.md R85 to R92) -/

/-! ## The word of an address (R63, R88) -/

/-- The word of the parts, in arithmetic: each part is taken modulo its field. -/
theorem groupWordNat_eq (m mi s : Nat) : groupWordNat m mi s = 2048 * (m % 32) + 256 * (mi % 8) + s % 256 := by
  have hmain : m &&& 0x1F = m % 32 := Nat.and_two_pow_sub_one_eq_mod m 5
  have hmiddle : mi &&& 0x07 = mi % 8 := Nat.and_two_pow_sub_one_eq_mod mi 3
  have hsub : s &&& 0xFF = s % 256 := Nat.and_two_pow_sub_one_eq_mod s 8
  rw [groupWordNat, hmain, hmiddle, hsub, Nat.or_assoc, ← Nat.shiftLeft_add_eq_or_of_lt (by omega : s % 256 < 2 ^ 8),
    ← Nat.shiftLeft_add_eq_or_of_lt (by simp only [Nat.shiftLeft_eq]; omega)]
  simp only [Nat.shiftLeft_eq]
  omega

/-- Parts modulo 2^16 have the same word: GA_PACK looks at 8 bits at most. -/
theorem groupWord_ofNat (m mi s : Nat) :
    groupWord (BitVec.ofNat 16 m) (BitVec.ofNat 16 mi) (BitVec.ofNat 16 s) = BitVec.ofNat 16 (groupWordNat m mi s) := by
  simp only [groupWord, groupWordNat_eq, BitVec.toNat_ofNat]
  congr 1
  omega

theorem groupAddressWord_of_parts {g : GroupAddress} {n : Nat × Nat × Nat} (h : groupParts g = .ok n) :
    groupAddressWord g = .ok (BitVec.ofNat 16 (groupWordNat n.1 n.2.1 n.2.2)) := by
  rw [groupAddressWord, h]
  rfl

theorem groupAddressPack_of_parts {g : GroupAddress} {n : Nat × Nat × Nat} (h : groupParts g = .ok n) :
    groupAddressPack g = .ok (.gaPack (BitVec.ofNat 16 n.1) (BitVec.ofNat 16 n.2.1) (BitVec.ofNat 16 n.2.2)) := by
  rw [groupAddressPack, h]
  rfl

/-- Settles O50, by `groupWordNat_eq` for step 3 of R88 and `groupWord_ofNat` for step 4. -/
theorem hostWordIsTheBlocksWord : Obligations.HostWordIsTheBlocksWord := by
  intro g n0 n1 n2 s hg
  have hparts : groupParts g = .ok (n0, n1, n2) := by
    obtain ⟨t, rfl, ht⟩ | rfl := hg
    · exact ht
    · rfl
  refine ⟨_, _, groupAddressWord_of_parts hparts, by rw [groupWordNat_eq], groupAddressPack_of_parts hparts, rfl, ?_⟩
  rw [← groupWord_ofNat]
  rfl

/-! ## Decimal parts (R88) -/

/-- The ten characters that `decDigit` takes. -/
theorem decDigit_isSome (ch : Char) :
    (decDigit ch).isSome = true ↔ ch ∈ ['0', '1', '2', '3', '4', '5', '6', '7', '8', '9'] := by
  constructor
  · intro h
    have hrange : '0' ≤ ch ∧ ch ≤ '9' := by
      by_contra hout
      simp [decDigit, hout] at h
    have hlow : 48 ≤ ch.toNat := hrange.1
    have hhigh : ch.toNat ≤ 57 := hrange.2
    rw [← Char.ofNat_toNat ch]
    generalize ch.toNat = n at hlow hhigh
    interval_cases n <;> decide
  · intro h
    fin_cases h <;> rfl

/-- A text denotes a natural exactly when it is not empty and all its characters are digits. -/
theorem digitsNat_isSome (base : Nat) (digit : Char → Option Nat) (t : Text) :
    (digitsNat base digit t).isSome = true ↔ t ≠ [] ∧ ∀ ch ∈ t, (digit ch).isSome = true := by
  have hfold (t : Text) (acc : Nat) :
      (t.foldlM (fun acc ch => (digit ch).map fun v => acc * base + v) acc).isSome = true ↔
        ∀ ch ∈ t, (digit ch).isSome = true := by
    induction t generalizing acc with
    | nil => simp
    | cons ch t ih => cases hch : digit ch <;> simp [hch, ih]
  cases t with
  | nil => simp [digitsNat]
  | cons ch t => exact (hfold (ch :: t) 0).trans (by simp)

/-- A non-empty text of decimal digits: what R88 asks of each part. -/
def isDecimal (p : Text) : Prop :=
  p ≠ [] ∧ ∀ ch ∈ p, ch ∈ ['0', '1', '2', '3', '4', '5', '6', '7', '8', '9']

theorem digitsNat_decimal_isSome (p : Text) : (digitsNat 10 decDigit p).isSome = true ↔ isDecimal p := by
  simp only [digitsNat_isSome, decDigit_isSome, isDecimal]

/-! ## Texts of three parts (R88) -/

theorem slash_notMem_of_isDecimal {p : Text} (h : isDecimal p) : '/' ∉ p := fun hmem =>
  absurd (h.2 _ hmem) (by decide)

/-- Steps 1 and 2 of R88 give three naturals exactly where the text splits into three decimal parts. -/
theorem parseGroupText_eq_ok_iff_splitOn {t : Text} :
    (∃ n, parseGroupText t = .ok n) ↔
      ∃ p0 p1 p2, t.splitOn '/' = [p0, p1, p2] ∧ ∀ p ∈ [p0, p1, p2], isDecimal p := by
  simp only [List.forall_mem_cons, ← digitsNat_decimal_isSome, Option.isSome_iff_exists]
  constructor
  · rintro ⟨n, h⟩
    unfold parseGroupText at h
    split at h
    case h_1 n0 n1 n2 hmap =>
      simp only [List.map_eq_cons_iff, List.map_eq_nil_iff] at hmap
      obtain ⟨p0, _, hsplit, h0, p1, _, rfl, h1, p2, _, rfl, h2, rfl⟩ := hmap
      exact ⟨p0, p1, p2, hsplit, ⟨n0, h0⟩, ⟨n1, h1⟩, ⟨n2, h2⟩, nofun⟩
    case h_2 => cases h
  · rintro ⟨p0, p1, p2, hsplit, ⟨n0, h0⟩, ⟨n1, h1⟩, ⟨n2, h2⟩, -⟩
    refine ⟨(n0, n1, n2), ?_⟩
    simp only [parseGroupText, hsplit, List.map_cons, List.map_nil, h0, h1, h2]

/-- A text parses exactly when it is three decimal parts with slashes between. -/
theorem parseGroupText_eq_ok {t : Text} :
    (∃ n, parseGroupText t = .ok n) ↔
      ∃ p0 p1 p2 : Text, t = p0 ++ ['/'] ++ p1 ++ ['/'] ++ p2 ∧ ∀ p ∈ [p0, p1, p2], isDecimal p := by
  have hjoin (p0 p1 p2 : Text) : ['/'].intercalate [p0, p1, p2] = p0 ++ ['/'] ++ p1 ++ ['/'] ++ p2 := by
    simp [List.intercalate]
  rw [parseGroupText_eq_ok_iff_splitOn]
  constructor
  · rintro ⟨p0, p1, p2, hsplit, hdec⟩
    exact ⟨p0, p1, p2, by rw [← hjoin, ← hsplit, List.intercalate_splitOn], hdec⟩
  · rintro ⟨p0, p1, p2, rfl, hdec⟩
    refine ⟨p0, p1, p2, ?_, hdec⟩
    rw [← hjoin]
    exact List.splitOn_intercalate '/' (fun p hp => slash_notMem_of_isDecimal (hdec p hp)) (List.cons_ne_nil _ _)

theorem parseGroupText_error {t : Text} {e : Status} (h : parseGroupText t = .error e) : e = .errInvalidAddress := by
  unfold parseGroupText at h
  split at h <;> cases h
  rfl

/-- Settles O51, by `parseGroupText_eq_ok`. -/
theorem groupTextsAreThreeDecimalParts : Obligations.GroupTextsAreThreeDecimalParts := fun _ =>
  ⟨parseGroupText_eq_ok, fun _ => parseGroupText_error⟩

/-! ## The host's operations (R92) -/

/-- Where R88 gives a word and a GA_PACK, the way decides only whether the GA_PACK is issued. -/
theorem wordActions_of_ok {g : GroupAddress} {w : Word} {i : Instr} (hword : groupAddressWord g = .ok w)
    (hpack : groupAddressPack g = .ok i) :
    wordActions .byGaPack g = .ok ([.issue (encode i)], w) ∧ wordActions .byHost g = .ok ([], w) := by
  simp only [wordActions, hword, hpack]
  exact ⟨rfl, rfl⟩

theorem wordActions_of_error {g : GroupAddress} {e : Status} (h : groupAddressWord g = .error e) (way : WordWay) :
    wordActions way g = .error e := by
  obtain ⟨e', hparts, hacts⟩ | ⟨i, w, -, hword, -⟩ := wordActions_cases way g
  · have hword : groupAddressWord g = .error e' := by
      rw [groupAddressWord, hparts]
      rfl
    exact hacts.trans (congrArg _ (Except.error.inj (hword.symm.trans h)))
  · exact absurd (hword.symm.trans h) nofun

theorem coerce_eq (v : WriteValue) : coerce v = if v = .bool false ∨ v = .number 0 then 0#8 else 1#8 := by
  cases v with
  | bool b => cases b <;> simp [coerce]
  | number q => simp [coerce]
  | other => simp [coerce]

theorem commandsOf_feedActions (chunk : Bytes) : commandsOf (feedActions chunk) = feedRecords chunk := by
  simp [commandsOf, feedActions, List.filterMap_map]

/-- The pushes of a list of chunks are those of their concatenation. -/
theorem commandsOf_monitorActions (chunks : List Bytes) :
    commandsOf (monitorActions chunks) = feedRecords chunks.flatten := by
  induction chunks with
  | nil => rfl
  | cons chunk chunks ih =>
    calc commandsOf (monitorActions (chunk :: chunks))
        = commandsOf (feedActions chunk) ++ commandsOf (monitorActions chunks) := List.filterMap_append
      _ = feedRecords (chunk :: chunks).flatten := by
          rw [commandsOf_feedActions, ih, feedRecords, feedRecords, feedRecords, List.flatten_cons, List.map_append]

/-- Settles O52: `write` and `readRequest` by `wordActions_of_ok` and `wordActions_of_error`, the stream by
`commandsOf_monitorActions`. -/
theorem hostOperationsIssueTheirCommands : Obligations.HostOperationsIssueTheirCommands := by
  refine ⟨rfl, fun g w i hword hpack => ?_, fun g e hword => ?_, commandsOf_feedActions, commandsOf_monitorActions, rfl⟩
  · obtain ⟨hblock, hhost⟩ := wordActions_of_ok hword hpack
    refine ⟨fun v => ⟨coerce v, ?_, ?_, coerce_eq v⟩, ?_⟩
    · rw [writeActions, hblock]
      rfl
    · rw [writeActions, hhost]
      rfl
    · rw [readRequestActions, hblock]
      rfl
  · refine ⟨fun way v => ?_, ?_⟩
    · rw [writeActions, wordActions_of_error hword]
      rfl
    · rw [readRequestActions, wordActions_of_error hword]
      rfl

end Sys2Proof.Machine

namespace Sys2Proof.Machine

/-! # The command syntax (spec/30_encoding.md R91) -/

/-! ## Blanks at the ends of a text -/

theorem trimBlanks_eq (t : Text) : trimBlanks t = (t.dropWhile isBlank).rdropWhile isBlank := rfl

/-- A text that ends in no blank stops the search for blanks from the right. -/
theorem rdropWhile_append_of_self {p : Char → Bool} {a : Text} (b : Text) (ha : a.rdropWhile p = a) :
    (a ++ b).rdropWhile p = a ++ b.rdropWhile p := by
  have hrev : a.reverse.dropWhile p = a.reverse := by simpa [List.rdropWhile] using congrArg List.reverse ha
  rw [List.rdropWhile, List.rdropWhile, List.reverse_append, List.dropWhile_append]
  split_ifs with hb
  · rw [hrev, List.isEmpty_iff.mp hb]
    simp
  · simp

theorem rdropWhile_append_of_all {p : Char → Bool} (a : Text) {b : Text} (hb : ∀ ch ∈ b, p ch = true) :
    (a ++ b).rdropWhile p = a.rdropWhile p := by
  rw [List.rdropWhile, List.reverse_append, List.dropWhile_append_of_pos (by simpa using hb), List.rdropWhile]

/-- Blanks dropped on the right already make no difference to trimming. -/
theorem trimBlanks_rdropWhile (t : Text) : trimBlanks (t.rdropWhile isBlank) = trimBlanks t := by
  have hblank : ∀ ch ∈ t.rtakeWhile isBlank, isBlank ch = true := fun ch h => List.mem_rtakeWhile_imp h
  conv_rhs => rw [← List.rdropWhile_append_rtakeWhile (p := isBlank) (l := t)]
  rw [trimBlanks_eq, trimBlanks_eq, List.dropWhile_append]
  split_ifs with h
  · rw [List.isEmpty_iff.mp h, List.dropWhile_eq_nil_iff.mpr hblank]
  · rw [rdropWhile_append_of_all _ hblank]

theorem trimBlanks_space (t : Text) : trimBlanks (' ' :: t) = trimBlanks t := rfl

/-- A text with no blank at either end. -/
structure IsTrimmed (t : Text) : Prop where
  ne_nil : t ≠ []
  head : ∀ ch ∈ t.head?, isBlank ch = false
  last : ∀ ch ∈ t.getLast?, isBlank ch = false

theorem isTrimmed_of_no_blank {t : Text} (hne : t ≠ []) (h : ∀ ch ∈ t, isBlank ch = false) : IsTrimmed t :=
  ⟨hne, fun ch hch => h ch (List.mem_of_mem_head? hch), fun ch hch => h ch (List.mem_of_mem_getLast? hch)⟩

/-- Trimming keeps a trimmed text at the start and drops blanks after it only. -/
theorem IsTrimmed.trimBlanks_append {t : Text} (h : IsTrimmed t) (u : Text) :
    trimBlanks (t ++ u) = t ++ u.rdropWhile isBlank := by
  obtain ⟨hne, hhead, hlast⟩ := h
  have hleft : (t ++ u).dropWhile isBlank = t ++ u := by
    obtain ⟨ch, t, rfl⟩ := List.exists_cons_of_ne_nil hne
    exact List.dropWhile_cons_of_neg (by simp [hhead ch rfl])
  have hright : t.rdropWhile isBlank = t :=
    List.rdropWhile_eq_self_iff.mpr fun hne => by simp [hlast _ (List.getLast_mem_getLast? hne)]
  rw [trimBlanks_eq, hleft, rdropWhile_append_of_self u hright]

theorem IsTrimmed.trimBlanks {t : Text} (h : IsTrimmed t) : trimBlanks t = t := by
  simpa using h.trimBlanks_append []

/-- Two trimmed texts with anything between them are a trimmed text. -/
theorem IsTrimmed.append {a b : Text} (ha : IsTrimmed a) (sep : Text) (hb : IsTrimmed b) :
    IsTrimmed (a ++ (sep ++ b)) := by
  refine ⟨by simp [ha.ne_nil], fun ch hch => ?_, fun ch hch => ?_⟩
  · rw [List.head?_append_of_ne_nil _ ha.ne_nil] at hch
    exact ha.head ch hch
  · rw [List.getLast?_append_of_ne_nil _ (by simp [hb.ne_nil]), List.getLast?_append_of_ne_nil _ hb.ne_nil] at hch
    exact hb.last ch hch

/-- A list of trimmed texts, one separator before each, after a trimmed text. -/
theorem IsTrimmed.append_flatMap {x : Text} (hx : IsTrimmed x) (sep : Text) {ts : List Text}
    (hts : ∀ t ∈ ts, IsTrimmed t) : IsTrimmed (x ++ ts.flatMap fun t => sep ++ t) := by
  induction ts generalizing x with
  | nil => simpa using hx
  | cons t ts ih =>
    rw [List.forall_mem_cons] at hts
    have := ih (hx.append sep hts.1) hts.2
    simpa using this

/-! ## Lines and comments -/

/-- The code of a line ends where its comment starts. -/
theorem codeOf_comment (line comment : Text) : codeOf (line ++ [';'] ++ comment) = codeOf line := by
  rw [codeOf, codeOf, List.append_assoc, List.takeWhile_append]
  split_ifs with h
  · simp [(List.takeWhile_prefix _).eq_of_length h]
  · rfl

/-- What a line is depends on its code alone. -/
theorem assemble_congr {line line' : Text} (h : codeOf line = codeOf line') : assemble line = assemble line' := by
  rw [assemble, assemble, h]

/-- Settles O55, by `codeOf_comment`. -/
theorem commentsAreIgnored : Obligations.CommentsAreIgnored := fun line comment =>
  assemble_congr (codeOf_comment line comment)

theorem codeOf_of_isTrimmed {t : Text} (h : IsTrimmed t) (hcode : ';' ∉ t) : codeOf t = t := by
  have htake : t.takeWhile (fun ch => ch != ';') = t :=
    List.takeWhile_eq_self_iff.mpr fun ch hch => by simpa using ne_of_mem_of_not_mem hch hcode
  rw [codeOf, htake, h.trimBlanks]

theorem mnemonicText_char (m : Mnemonic) : ∀ ch ∈ mnemonicText m, isBlank ch = false ∧ ch ≠ ';' := by
  cases m <;> simp [mnemonicText, isBlank]

theorem mnemonicText_ne_nil (m : Mnemonic) : mnemonicText m ≠ [] := by
  cases m <;> nofun

theorem mnemonicNamed_mnemonicText (m : Mnemonic) : mnemonicNamed (mnemonicText m) = some m := by
  cases m <;> rfl

/-- A line whose mnemonic has been read: the command its operands denote, or an error. -/
def lineAnswer : Option Instr → Except AsmError (Option Instr)
  | some i => .ok (some i)
  | none => .error .badOperands

/-- The code of a line of a mnemonic: the mnemonic, then the code of its operands, but for blanks at its ends. -/
theorem codeOf_mnemonic_line (m : Mnemonic) (rest : Text) :
    ∃ r, codeOf (mnemonicText m ++ [' '] ++ rest) = mnemonicText m ++ r ∧ trimBlanks r = codeOf rest ∧
      (r = [] ∨ ∃ r', r = ' ' :: r') := by
  have htrim := isTrimmed_of_no_blank (mnemonicText_ne_nil m) fun ch hch => (mnemonicText_char m ch hch).1
  have htake : (mnemonicText m ++ [' '] ++ rest).takeWhile (fun ch => ch != ';') =
      mnemonicText m ++ ' ' :: rest.takeWhile (fun ch => ch != ';') := by
    rw [List.append_assoc, List.takeWhile_append_of_pos fun ch hch => by simp [(mnemonicText_char m ch hch).2]]
    rfl
  refine ⟨(' ' :: rest.takeWhile (fun ch => ch != ';')).rdropWhile isBlank, ?_, ?_, ?_⟩
  · rw [codeOf, htake, htrim.trimBlanks_append]
  · rw [trimBlanks_rdropWhile, trimBlanks_space, codeOf]
  · obtain hnil | ⟨r', hr', -⟩ := List.prefix_cons_iff.mp (List.rdropWhile_prefix isBlank _)
    · exact .inl hnil
    · exact .inr ⟨r', hr'⟩

/-- A line of a mnemonic is what its operands denote (R91). -/
theorem assemble_mnemonic_line (m : Mnemonic) (rest : Text) :
    assemble (mnemonicText m ++ [' '] ++ rest) = lineAnswer (assembleOperands m (codeOf rest)) := by
  obtain ⟨r, hcode, htrim, hr⟩ := codeOf_mnemonic_line m rest
  have hdark : ∀ ch ∈ mnemonicText m, (!isBlank ch) = true := fun ch hch => by simp [(mnemonicText_char m ch hch).1]
  have hspan : (mnemonicText m ++ r).span (fun ch => !isBlank ch) = (mnemonicText m, r) := by
    rw [List.span_eq_takeWhile_dropWhile, List.takeWhile_append_of_pos hdark, List.dropWhile_append_of_pos hdark]
    obtain rfl | ⟨r', rfl⟩ := hr
    · simp
    · simp [isBlank]
  have hne : (mnemonicText m).isEmpty = false := by simp [mnemonicText_ne_nil]
  simp only [assemble, hcode, hspan, hne, mnemonicNamed_mnemonicText, htrim]
  cases assembleOperands m (codeOf rest) <;> rfl

/-! ## Operands -/

/-- Texts without a separator, one separator before each but the first, split into those texts. -/
theorem splitOnP_append_flatMap {p : Char → Bool} {sep : Char} (hsep : p sep = true) (f : Text → Text) {x : Text}
    {ts : List Text} (hx : ∀ ch ∈ x, p ch = false) (hts : ∀ t ∈ ts, ∀ ch ∈ f t, p ch = false) :
    (x ++ ts.flatMap fun t => sep :: f t).splitOnP p = x :: ts.map f := by
  induction ts generalizing x with
  | nil => simpa using List.splitOnP_eq_singleton hx
  | cons t ts ih =>
    rw [List.forall_mem_cons] at hts
    rw [List.flatMap_cons, List.cons_append, List.splitOnP_append_cons_of_forall_mem hx sep hsep, ih hts.1 hts.2,
      List.map_cons]

/-- An operand as a writer of lines gives it: no blank at its ends, no comma and no comment in it. -/
structure IsOperand (t : Text) : Prop where
  trimmed : IsTrimmed t
  noComma : ',' ∉ t
  noComment : ';' ∉ t

/-- Operands, a comma and a space between them. -/
def joinOperands (x : Text) (ts : List Text) : Text := x ++ ts.flatMap fun t => [',', ' '] ++ t

theorem operandTexts_joinOperands {x : Text} {ts : List Text} (hx : IsOperand x) (hts : ∀ t ∈ ts, IsOperand t) :
    operandTexts (joinOperands x ts) = x :: ts := by
  have hsplit : (joinOperands x ts).splitOn ',' = x :: ts.map (' ' :: ·) :=
    splitOnP_append_flatMap (by simp) (' ' :: ·) (fun ch hch => by simpa using ne_of_mem_of_not_mem hch hx.noComma)
      fun t ht ch hch => by
        obtain rfl | hch := List.mem_cons.mp hch
        · simp
        · simpa using ne_of_mem_of_not_mem hch (hts t ht).noComma
  have hne : (joinOperands x ts).isEmpty = false := by simp [joinOperands, hx.trimmed.ne_nil]
  have htrim : ts.map (trimBlanks ∘ (' ' :: ·)) = ts :=
    (List.map_congr_left fun t ht => (hts t ht).trimmed.trimBlanks).trans (List.map_id ts)
  rw [operandTexts, hne, hsplit, List.map_cons, List.map_map, hx.trimmed.trimBlanks, htrim]
  rfl

theorem codeOf_joinOperands {x : Text} {ts : List Text} (hx : IsOperand x) (hts : ∀ t ∈ ts, IsOperand t) :
    codeOf (joinOperands x ts) = joinOperands x ts := by
  refine codeOf_of_isTrimmed (hx.trimmed.append_flatMap _ fun t ht => (hts t ht).trimmed) ?_
  simp only [joinOperands, List.mem_append, List.mem_flatMap, not_or, not_exists, not_and]
  exact ⟨hx.noComment, fun t ht => ⟨by decide, (hts t ht).noComment⟩⟩

/-- A line of a mnemonic and operands denotes the command that the operands give. -/
theorem assemble_operands {m : Mnemonic} {x : Text} {ts : List Text} {i : Instr} (hx : IsOperand x)
    (hts : ∀ t ∈ ts, IsOperand t)
    (hi : operandTexts (joinOperands x ts) = x :: ts → assembleOperands m (joinOperands x ts) = some i) :
    assemble (mnemonicText m ++ [' '] ++ joinOperands x ts) = .ok (some i) := by
  rw [assemble_mnemonic_line, codeOf_joinOperands hx hts, hi (operandTexts_joinOperands hx hts), lineAnswer]

/-! ## Quoted address texts that R88 refuses -/

theorem parseQuoted_quoted (q : Text) : parseQuoted (['"'] ++ q ++ ['"']) = some q := by
  simp [parseQuoted]

theorem parseQuoted_of_unclosed {p : Text} (h : '"' ∉ p) : parseQuoted ('"' :: p) = none := by
  have hlast : p.getLast? ≠ some '"' := fun hlast => h (List.mem_of_getLast? hlast)
  simp [parseQuoted, hlast]

theorem parseQuoted_of_no_quote {t : Text} (h : '"' ∉ t) : parseQuoted t = none := by
  unfold parseQuoted
  split
  · exact absurd List.mem_cons_self h
  · rfl

/-- A quote begins no number. -/
theorem parseSlot_quote (w : Nat) (t : Text) : parseSlot w ('"' :: t) = none := by
  have hnumber : parseNumber ('"' :: t) = none := Option.not_isSome_iff_eq_none.mp fun h =>
    absurd (((digitsNat_isSome 10 decDigit ('"' :: t)).mp h).2 '"' List.mem_cons_self) (by decide)
  rw [parseSlot, hnumber]

theorem groupAddressWord_of_error {q : Text} {e : Status} (h : parseGroupText q = .error e) :
    groupAddressWord (.text q) = .error e := by
  rw [groupAddressWord, groupParts_text, h]
  rfl

/-- Of a refused text in quotes, no beginning is an operand: the whole is refused, the rest is not closed. -/
theorem parseGroupOperand_of_refused {q p : Text} {e : Status} (hq : '"' ∉ q) (he : parseGroupText q = .error e)
    (hp : p <+: q ++ ['"']) : parseGroupOperand ('"' :: p) = none := by
  obtain rfl | hp := List.prefix_concat_iff.mp hp
  · have hquoted : parseQuoted ('"' :: (q ++ ['"'])) = some q := parseQuoted_quoted q
    rw [parseGroupOperand, hquoted]
    simp only [groupAddressWord_of_error he]
    rfl
  · rw [parseGroupOperand, parseQuoted_of_unclosed fun h => hq (hp.subset h)]
    exact parseSlot_quote 16 p

/-- The first part of a text is what stands before the first separator. -/
theorem splitOn_head (a : Char) (t : Text) : ∃ more, t.splitOn a = t.takeWhile (fun ch => ch != a) :: more := by
  induction t with
  | nil => exact ⟨[], rfl⟩
  | cons ch t ih =>
    obtain ⟨more, ih⟩ := ih
    rw [List.splitOn_cons_eq_if_modifyHead, ih]
    by_cases h : ch = a
    · exact ⟨t.takeWhile (fun ch => ch != a) :: more, by simp [h]⟩
    · exact ⟨more, by simp [h]⟩

theorem codeOf_quote (z : Text) : ∃ code, codeOf ('"' :: z) = '"' :: code ∧ code <+: z := by
  have hquote : IsTrimmed ['"'] := isTrimmed_of_no_blank (List.cons_ne_nil _ _) (by simp [isBlank])
  refine ⟨(z.takeWhile fun ch => ch != ';').rdropWhile isBlank, ?_, ?_⟩
  · rw [codeOf, List.takeWhile_cons_of_pos (by decide)]
    exact hquote.trimBlanks_append _
  · exact (List.rdropWhile_prefix isBlank _).trans (List.takeWhile_prefix _)

/-- The first operand of a line that begins with a quote begins with it too, and holds some of what stands before the
first comma. -/
theorem operandTexts_quote (z : Text) :
    ∃ p more, operandTexts (codeOf ('"' :: z)) = ('"' :: p) :: more ∧ p <+: z ∧ ',' ∉ p := by
  have hquote : IsTrimmed ['"'] := isTrimmed_of_no_blank (List.cons_ne_nil _ _) (by simp [isBlank])
  obtain ⟨code, hcode, hprefix⟩ := codeOf_quote z
  obtain ⟨more, hsplit⟩ := splitOn_head ',' ('"' :: code)
  refine ⟨(code.takeWhile fun ch => ch != ',').rdropWhile isBlank, more.map trimBlanks, ?_, ?_, fun hmem => ?_⟩
  · have htrim := hquote.trimBlanks_append (code.takeWhile fun ch => ch != ',')
    rw [hcode, operandTexts, hsplit, List.takeWhile_cons_of_pos (by decide), List.map_cons]
    exact congrArg (· :: more.map trimBlanks) htrim
  · exact ((List.rdropWhile_prefix isBlank _).trans (List.takeWhile_prefix _)).trans hprefix
  · have hcomma := List.mem_takeWhile_imp ((List.rdropWhile_prefix isBlank _).subset hmem)
    simp at hcomma

/-- A beginning without a comma ends before the comma. -/
theorem prefix_of_comma_notMem {p a tail : Text} (hp : p <+: a ++ tail) (hcomma : ',' ∉ p)
    (htail : tail = [] ∨ ∃ y, tail = ',' :: y) : p <+: a := by
  obtain rfl | ⟨y, rfl⟩ := htail
  · simpa using hp
  · obtain hpa | ⟨k, rfl⟩ := List.prefix_or_prefix_of_prefix hp (List.prefix_append a _)
    · exact hpa
    · obtain rfl | ⟨k', rfl, -⟩ := List.prefix_cons_iff.mp ((List.prefix_append_right_inj a).mp hp)
      · simp
      · simp at hcomma

theorem assembleOperands_of_bad_group_operand {m : Mnemonic} {rest x : Text} {more : List Text}
    (hm : m ∈ [.gaUnpack, .mkRead, .mkWrite]) (hops : operandTexts rest = x :: more)
    (hx : parseGroupOperand x = none) : assembleOperands m rest = none := by
  fin_cases hm
  · cases more <;> simp [assembleOperands, hops, hx]
  · cases more <;> simp [assembleOperands, hops, hx]
  · rcases more with - | ⟨y, - | ⟨z, more⟩⟩ <;> simp [assembleOperands, hops, hx]

theorem assemble_refused {m : Mnemonic} {q tail : Text} {e : Status} (hm : m ∈ [.gaUnpack, .mkRead, .mkWrite])
    (hq : '"' ∉ q) (he : parseGroupText q = .error e) (htail : tail = [] ∨ ∃ y, tail = ',' :: y) :
    assemble (mnemonicText m ++ [' '] ++ ('"' :: (q ++ ['"'] ++ tail))) = .error .badOperands := by
  obtain ⟨p, more, hops, hprefix, hcomma⟩ := operandTexts_quote (q ++ ['"'] ++ tail)
  have hoperand := parseGroupOperand_of_refused hq he (prefix_of_comma_notMem hprefix hcomma htail)
  rw [assemble_mnemonic_line, assembleOperands_of_bad_group_operand hm hops hoperand, lineAnswer]

/-- Settles O56, by `assemble_refused`: whatever follows the text, the first operand is not one. -/
theorem refusedAddressTextsMakeTheLineAnError : Obligations.RefusedAddressTextsMakeTheLineAnError := by
  intro q y e hq he
  refine ⟨?_, ?_, ?_⟩
  · simpa using assemble_refused (m := .gaUnpack) (by simp) hq he (.inl rfl)
  · simpa using assemble_refused (m := .mkRead) (by simp) hq he (.inl rfl)
  · simpa using assemble_refused (m := .mkWrite) (by simp) hq he (.inr ⟨' ' :: y, rfl⟩)

end Sys2Proof.Machine

namespace Sys2Proof.Machine

/-! # Spellings of operands (R91) -/

/-! ## Digits and numbers -/

/-- The characters that have a meaning of their own in a line. -/
def separators : Text := [' ', '\t', ',', ';', '"']

theorem isBlank_of_notMem_separators {ch : Char} (h : ch ∉ separators) : isBlank ch = false := by
  have hspace : ch ≠ ' ' := fun heq => h (by simp [heq, separators])
  have htab : ch ≠ '\t' := fun heq => h (by simp [heq, separators])
  simp [isBlank, hspace, htab]

/-- A text that nothing in a line breaks up. -/
structure IsWord (t : Text) : Prop where
  ne_nil : t ≠ []
  char : ∀ ch ∈ t, ch ∉ separators

theorem IsWord.not_blank {t : Text} (h : IsWord t) : ∀ ch ∈ t, isBlank ch = false :=
  fun ch hch => isBlank_of_notMem_separators (h.char ch hch)

theorem IsWord.noQuote {t : Text} (h : IsWord t) : '"' ∉ t := fun hch => h.char _ hch (by decide)

theorem IsWord.isOperand {t : Text} (h : IsWord t) : IsOperand t :=
  ⟨isTrimmed_of_no_blank h.ne_nil h.not_blank, fun hch => h.char _ hch (by decide), fun hch => h.char _ hch (by decide)⟩

/-- Words, a space between them, are those words. -/
theorem blankWords_append_flatMap {x : Text} {ts : List Text} (hx : IsWord x) (hts : ∀ t ∈ ts, IsWord t) :
    blankWords (x ++ ts.flatMap fun t => [' '] ++ t) = x :: ts := by
  have hsplit : (x ++ ts.flatMap fun t => [' '] ++ t).splitOnP isBlank = x :: ts.map fun t => t :=
    splitOnP_append_flatMap (by simp [isBlank]) (fun t => t) hx.not_blank fun t ht => (hts t ht).not_blank
  rw [blankWords, hsplit, List.map_id', List.filter_eq_self]
  exact List.forall_mem_cons.mpr ⟨by simp [hx.ne_nil], fun t ht => by simp [(hts t ht).ne_nil]⟩

theorem forall_of_forall₂ {α β : Type} {R : α → β → Prop} {P : α → Prop} (hP : ∀ a b, R a b → P a) {l : List α}
    {l' : List β} (h : List.Forall₂ R l l') : ∀ a ∈ l, P a := by
  induction h with
  | nil => nofun
  | cons hab _ ih => exact List.forall_mem_cons.mpr ⟨hP _ _ hab, ih⟩

theorem mapM_eq_some_of_forall₂ {α β : Type} {f : α → Option β} {l : List α} {l' : List β}
    (h : List.Forall₂ (fun a b => f a = some b) l l') : l.mapM f = some l' := by
  induction h with
  | nil => rfl
  | cons hab _ ih => simp [List.mapM_cons, hab, ih]

/-- The reader of digits of a base reads a digit in either letter case. -/
def readsDigits (base : Nat) (digit : Char → Option Nat) : Prop :=
  ∀ d < base, digit d.digitChar = some d ∧ digit d.digitChar.toUpper = some d

theorem readsDigits_decimal : readsDigits 10 decDigit := by
  unfold readsDigits
  decide

theorem readsDigits_hexadecimal : readsDigits 16 hexDigit := by
  unfold readsDigits
  decide

theorem digitChar_notMem_separators :
    ∀ d < 16, d.digitChar ∉ separators ∧ d.digitChar.toUpper ∉ separators := by decide

/-- A spelled number is read back. -/
theorem digitsNat_of_spellsDigits {base : Nat} {digit : Char → Option Nat} (hread : readsDigits base digit) {t : Text}
    {n : Nat} (h : spellsDigits base t n) : digitsNat base digit t = some n := by
  obtain ⟨ds, hne, rfl, hspell⟩ := h
  have hfold (acc : Nat) : t.foldlM (fun acc ch => (digit ch).map fun v => acc * base + v) acc =
      some (ds.foldl (fun acc d => acc * base + d) acc) := by
    clear hne
    induction hspell generalizing acc with
    | nil => rfl
    | @cons ch d t ds hch _ ih =>
      have hdigit : digit ch = some d := by
        obtain ⟨hlt, rfl | rfl⟩ := hch
        · exact (hread d hlt).1
        · exact (hread d hlt).2
      simp [hdigit, ih]
  cases hspell with
  | nil => exact absurd rfl hne
  | cons hch htail => exact hfold 0

theorem isWord_of_spellsDigits {base : Nat} (hbase : base ≤ 16) {t : Text} {n : Nat} (h : spellsDigits base t n) :
    IsWord t := by
  obtain ⟨ds, hne, -, hspell⟩ := h
  refine ⟨?_, forall_of_forall₂ (fun ch d hch => ?_) hspell⟩
  · rintro rfl
    exact hne (List.forall₂_nil_left_iff.mp hspell)
  · obtain ⟨hlt, rfl | rfl⟩ := hch
    · exact (digitChar_notMem_separators d (by omega)).1
    · exact (digitChar_notMem_separators d (by omega)).2

theorem parseNumber_of_spells {t : Text} {n : Nat} (h : spellsNumber t n) : parseNumber t = some n := by
  obtain hdec | ⟨hex, rfl, hhex⟩ := h
  · have hread := digitsNat_of_spellsDigits readsDigits_decimal hdec
    unfold parseNumber
    split
    next rest =>
      have hdigits := ((digitsNat_isSome 10 decDigit _).mp (Option.isSome_of_eq_some hread)).2 'x'
      exact absurd (hdigits (by simp)) (by decide)
    next => exact hread
  · exact digitsNat_of_spellsDigits readsDigits_hexadecimal hhex

theorem isWord_of_spellsNumber {t : Text} {n : Nat} (h : spellsNumber t n) : IsWord t := by
  obtain hdec | ⟨hex, rfl, hhex⟩ := h
  · exact isWord_of_spellsDigits (by omega) hdec
  · refine ⟨List.cons_ne_nil _ _, List.forall_mem_append.mpr ⟨?_, (isWord_of_spellsDigits le_rfl hhex).char⟩⟩
    simp [separators]

theorem parseSlot_of_spells {w : Nat} {t : Text} {a : BitVec w} (h : spellsNumber t a.toNat) :
    parseSlot w t = some a := by
  simp [parseSlot, parseNumber_of_spells h, a.isLt]

/-! ## Group addresses -/

theorem isDecimal_char {p : Text} (h : isDecimal p) : ∀ ch ∈ p, ch ∉ separators := fun ch hch hsep => by
  have := h.2 ch hch
  revert hsep
  fin_cases this <;> simp [separators]

/-- An address text that has a word holds digits and slashes only. -/
theorem groupText_char {q : Text} {w : Word} (h : groupAddressWord (.text q) = .ok w) : ∀ ch ∈ q, ch ∉ separators := by
  have hparse : ∃ n, parseGroupText q = .ok n := by
    cases hq : parseGroupText q with
    | ok n => exact ⟨n, rfl⟩
    | error e => exact absurd ((groupAddressWord_of_error hq).symm.trans h) nofun
  obtain ⟨p0, p1, p2, rfl, hdec⟩ := parseGroupText_eq_ok.mp hparse
  have hslash : ∀ ch ∈ ['/'], ch ∉ separators := by simp [separators]
  simp only [List.forall_mem_cons] at hdec
  obtain ⟨h0, h1, h2, -⟩ := hdec
  simp only [List.forall_mem_append]
  exact ⟨⟨⟨⟨isDecimal_char h0, hslash⟩, isDecimal_char h1⟩, hslash⟩, isDecimal_char h2⟩

theorem parseGroupOperand_of_spells {t : Text} {w : Word} (h : spellsGroupOperand t w) :
    parseGroupOperand t = some w := by
  obtain hnum | ⟨q, rfl, hw⟩ := h
  · rw [parseGroupOperand, parseQuoted_of_no_quote (isWord_of_spellsNumber hnum).noQuote]
    exact parseSlot_of_spells hnum
  · simp only [parseGroupOperand, parseQuoted_quoted, hw]
    rfl

theorem isOperand_of_spellsGroupOperand {t : Text} {w : Word} (h : spellsGroupOperand t w) : IsOperand t := by
  obtain hnum | ⟨q, rfl, hw⟩ := h
  · exact (isWord_of_spellsNumber hnum).isOperand
  · have hquote : IsTrimmed ['"'] := isTrimmed_of_no_blank (List.cons_ne_nil _ _) (by simp [isBlank])
    refine ⟨?_, ?_, ?_⟩
    · rw [List.append_assoc]
      exact hquote.append q hquote
    · simpa using fun hch => groupText_char hw _ hch (by decide)
    · simpa using fun hch => groupText_char hw _ hch (by decide)

/-! ## Field entries -/

/-- How R91 writes a width. -/
def widthText : FieldWidth → Text
  | .u8 => ['u', '8']
  | .u16 => ['u', '1', '6']

theorem spellsEntry_iff {t : Text} {e : FieldEntry} :
    spellsEntry t e ↔ ∃ v, spellsNumber v e.val.toNat ∧ t = widthText e.w ++ ([' '] ++ v) := by
  unfold spellsEntry
  cases e.w <;> simp [widthText]

theorem isWord_widthText (w : FieldWidth) : IsWord (widthText w) := by
  cases w <;> exact ⟨List.cons_ne_nil _ _, by simp [widthText, separators]⟩

theorem isOperand_of_spellsEntry {t : Text} {e : FieldEntry} (h : spellsEntry t e) : IsOperand t := by
  obtain ⟨v, hv, rfl⟩ := spellsEntry_iff.mp h
  have hwidth := (isWord_widthText e.w).isOperand
  have hval := (isWord_of_spellsNumber hv).isOperand
  refine ⟨hwidth.trimmed.append [' '] hval.trimmed, ?_, ?_⟩
  · simp [hwidth.noComma, hval.noComma]
  · simp [hwidth.noComment, hval.noComment]

theorem parseEntry_of_spells {t : Text} {e : FieldEntry} (h : spellsEntry t e) : parseEntry t = some e := by
  obtain ⟨v, hv, rfl⟩ := spellsEntry_iff.mp h
  have hwords : blankWords (widthText e.w ++ ([' '] ++ v)) = [widthText e.w, v] := by
    simpa using blankWords_append_flatMap (isWord_widthText e.w) (ts := [v]) (by simpa using isWord_of_spellsNumber hv)
  have hslot : parseSlot 16 v = some e.val := parseSlot_of_spells hv
  rw [parseEntry, hwords]
  obtain ⟨w, val⟩ := e
  cases w <;> simp [widthText, hslot]

/-! ## Byte sequences -/

theorem spellsHexByte_eq {t : Text} {b : Byte} (h : spellsHexByte t b) :
    ∃ hi lo, t = [hi, lo] ∧ hexPair hi lo = some b := by
  obtain ⟨hlen, hspell⟩ := h
  obtain ⟨hi, lo, rfl⟩ := List.length_eq_two.mp hlen
  refine ⟨hi, lo, rfl, ?_⟩
  have hread := digitsNat_of_spellsDigits readsDigits_hexadecimal hspell
  cases hhi : hexDigit hi with
  | none => simp [digitsNat, hhi] at hread
  | some x =>
    cases hlo : hexDigit lo with
    | none => simp [digitsNat, hhi, hlo] at hread
    | some y =>
      have hval : x * 16 + y = b.toNat := by simpa [digitsNat, hhi, hlo] using hread
      simp [hexPair, hhi, hlo, hval]

theorem parseHexByte_of_spells {t : Text} {b : Byte} (h : spellsHexByte t b) : parseHexByte t = some b := by
  obtain ⟨hi, lo, rfl, hpair⟩ := spellsHexByte_eq h
  exact hpair

theorem parseEscapes_of_spells {ts : List Text} {bs : Bytes} (h : List.Forall₂ spellsHexByte ts bs) :
    parseEscapes ((ts.flatMap fun t => ['\\', 'x'] ++ t) ++ ['\'']) = some bs := by
  induction h with
  | nil => rfl
  | @cons t b ts bs hb _ ih =>
    obtain ⟨hi, lo, rfl, hpair⟩ := spellsHexByte_eq hb
    have htail : parseEscapes ('\\' :: 'x' :: hi :: lo :: ((ts.flatMap fun t => ['\\', 'x'] ++ t) ++ ['\''])) =
        some (b :: bs) := by
      rw [parseEscapes, hpair, ih]
    exact htail

theorem isWord_of_spellsHexByte {t : Text} {b : Byte} (h : spellsHexByte t b) : IsWord t :=
  isWord_of_spellsDigits le_rfl h.2

/-- Hex bytes begin no quoted sequence. -/
theorem parseBytes_of_spells {t : Text} {b : Byte} {ts : List Text} {bs : Bytes} (hb : spellsHexByte t b)
    (hbs : List.Forall₂ spellsHexByte ts bs) :
    parseBytes (t ++ ts.flatMap fun t => [' '] ++ t) = some (b :: bs) := by
  have hwords := blankWords_append_flatMap (isWord_of_spellsHexByte hb)
    (forall_of_forall₂ (P := IsWord) (fun _ _ => isWord_of_spellsHexByte) hbs)
  have hbytes : (t :: ts).mapM parseHexByte = some (b :: bs) :=
    mapM_eq_some_of_forall₂ (.cons (parseHexByte_of_spells hb) (hbs.imp fun _ _ => parseHexByte_of_spells))
  unfold parseBytes
  split
  next rest heq =>
    obtain ⟨hi, lo, rfl, hpair⟩ := spellsHexByte_eq hb
    obtain ⟨rfl, rfl, -⟩ : 'b' = hi ∧ '\'' = lo ∧ _ := by simpa [eq_comm] using heq
    exact absurd (hpair.symm.trans (rfl : hexPair 'b' '\'' = none)) nofun
  next => rw [hwords, hbytes]

/-! ## Each row's line -/

theorem assemble_gaPack {a b c : Word} {x y z : Text} (hx : spellsNumber x a.toNat) (hy : spellsNumber y b.toNat)
    (hz : spellsNumber z c.toNat) :
    assemble (mnemonicText .gaPack ++ [' '] ++ x ++ [',', ' '] ++ y ++ [',', ' '] ++ z) =
      .ok (some (.gaPack a b c)) := by
  have hline := assemble_operands (m := .gaPack) (ts := [y, z]) (i := .gaPack a b c)
    (isWord_of_spellsNumber hx).isOperand
    (by simp [(isWord_of_spellsNumber hy).isOperand, (isWord_of_spellsNumber hz).isOperand])
    fun hops => by
      simp [assembleOperands, hops, parseSlot_of_spells hx, parseSlot_of_spells hy, parseSlot_of_spells hz]
  simpa [joinOperands] using hline

/-- A line of one operand. -/
theorem assemble_operand {m : Mnemonic} {x : Text} {i : Instr} (hx : IsOperand x)
    (hi : operandTexts x = [x] → assembleOperands m x = some i) :
    assemble (mnemonicText m ++ [' '] ++ x) = .ok (some i) := by
  have hjoin : joinOperands x [] = x := List.append_nil x
  have hline := assemble_operands (m := m) (ts := []) (i := i) hx nofun (by rwa [hjoin])
  rwa [hjoin] at hline

theorem assemble_gaUnpack {a : Word} {x : Text} (hx : spellsGroupOperand x a) :
    assemble (mnemonicText .gaUnpack ++ [' '] ++ x) = .ok (some (.gaUnpack a)) :=
  assemble_operand (isOperand_of_spellsGroupOperand hx) fun hops => by
    simp [assembleOperands, hops, parseGroupOperand_of_spells hx]

theorem assemble_mkRead {a : Word} {x : Text} (hx : spellsGroupOperand x a) :
    assemble (mnemonicText .mkRead ++ [' '] ++ x) = .ok (some (.mkRead a)) :=
  assemble_operand (isOperand_of_spellsGroupOperand hx) fun hops => by
    simp [assembleOperands, hops, parseGroupOperand_of_spells hx]

theorem assemble_mkWrite {a : Word} {d : Byte} {x y : Text} (hx : spellsGroupOperand x a)
    (hy : spellsNumber y d.toNat) :
    assemble (mnemonicText .mkWrite ++ [' '] ++ x ++ [',', ' '] ++ y) = .ok (some (.mkWrite a d)) := by
  have hline := assemble_operands (m := .mkWrite) (ts := [y]) (i := .mkWrite a d) (isOperand_of_spellsGroupOperand hx)
    (by simp [(isWord_of_spellsNumber hy).isOperand])
    fun hops => by simp [assembleOperands, hops, parseGroupOperand_of_spells hx, parseSlot_of_spells hy]
  simpa [joinOperands] using hline

theorem assemble_iaUnpack {a : Word} {x : Text} (hx : spellsNumber x a.toNat) :
    assemble (mnemonicText .iaUnpack ++ [' '] ++ x) = .ok (some (.iaUnpack a)) :=
  assemble_operand (isWord_of_spellsNumber hx).isOperand fun hops => by
    simp [assembleOperands, hops, parseSlot_of_spells hx]

theorem assemble_fbdPush {d : Byte} {x : Text} (hx : spellsNumber x d.toNat) :
    assemble (mnemonicText .fbdPush ++ [' '] ++ x) = .ok (some (.fbdPush d)) :=
  assemble_operand (isWord_of_spellsNumber hx).isOperand fun hops => by
    simp [assembleOperands, hops, parseSlot_of_spells hx]

theorem assemble_framePack {a : Word} {x : Text} {es : List FieldEntry} {ts : List Text}
    (hx : spellsNumber x a.toNat) (hts : List.Forall₂ spellsEntry ts es) :
    assemble (mnemonicText .framePack ++ [' '] ++ x ++ ts.flatMap fun t => [',', ' '] ++ t) =
      .ok (some (.framePack a es)) := by
  have hentries : ts.mapM parseEntry = some es :=
    mapM_eq_some_of_forall₂ (hts.imp fun _ _ => parseEntry_of_spells)
  rw [List.append_assoc]
  exact assemble_operands (isWord_of_spellsNumber hx).isOperand
    (forall_of_forall₂ (P := IsOperand) (fun _ _ => isOperand_of_spellsEntry) hts)
    fun hops => by simp [assembleOperands, hops, parseSlot_of_spells hx, hentries]

/-- FRAME_DECODE has one operand, which commas do not divide. -/
theorem assemble_frameDecode {rest : Text} {bs : Bytes} (htrim : IsTrimmed rest) (hcode : ';' ∉ rest)
    (hbs : parseBytes rest = some bs) :
    assemble (mnemonicText .frameDecode ++ [' '] ++ rest) = .ok (some (.frameDecode bs)) := by
  have hops : assembleOperands .frameDecode rest = some (.frameDecode bs) := by
    simp [assembleOperands, hbs]
  rw [assemble_mnemonic_line, codeOf_of_isTrimmed htrim hcode, hops, lineAnswer]

theorem assemble_frameDecode_escapes {bs : Bytes} {ts : List Text} (h : List.Forall₂ spellsHexByte ts bs) :
    assemble (mnemonicText .frameDecode ++ [' ', 'b', '\''] ++ (ts.flatMap fun t => ['\\', 'x'] ++ t) ++ ['\'']) =
      .ok (some (.frameDecode bs)) := by
  have hword := forall_of_forall₂ (P := IsWord) (fun _ _ => isWord_of_spellsHexByte) h
  have hopen : IsTrimmed ['b', '\''] := isTrimmed_of_no_blank (List.cons_ne_nil _ _) (by simp [isBlank])
  have hclose : IsTrimmed ['\''] := isTrimmed_of_no_blank (List.cons_ne_nil _ _) (by simp [isBlank])
  have hline := assemble_frameDecode (bs := bs) (hopen.append (ts.flatMap fun t => ['\\', 'x'] ++ t) hclose)
    (by simpa using fun t ht => (hword t ht).isOperand.noComment) (parseEscapes_of_spells h)
  simpa using hline

theorem assemble_frameDecode_hex {bs : Bytes} {ts : List Text} (h : List.Forall₂ spellsHexByte ts bs) :
    assemble (mnemonicText .frameDecode ++ ts.flatMap fun t => [' '] ++ t) = .ok (some (.frameDecode bs)) := by
  cases h with
  | nil => rfl
  | @cons t b ts bs hb hbs =>
    have hword := isWord_of_spellsHexByte hb
    have hwords := forall_of_forall₂ (P := IsWord) (fun _ _ => isWord_of_spellsHexByte) hbs
    have hline := assemble_frameDecode
      (hword.isOperand.trimmed.append_flatMap [' '] fun t ht => (hwords t ht).isOperand.trimmed)
      (by simpa [hword.isOperand.noComment] using fun t ht => (hwords t ht).isOperand.noComment)
      (parseBytes_of_spells hb hbs)
    simpa using hline

/-- Settles O54, row by row. -/
theorem commandLinesAssemble : Obligations.CommandLinesAssemble :=
  ⟨fun _ _ _ _ _ _ => assemble_gaPack,
    fun _ _ hx => ⟨assemble_gaUnpack hx, assemble_mkRead hx, fun _ _ => assemble_mkWrite hx⟩,
    fun _ _ => assemble_iaUnpack, fun _ _ _ _ => assemble_framePack, rfl,
    fun _ _ h => ⟨assemble_frameDecode_escapes h, assemble_frameDecode_hex h⟩, fun _ _ => assemble_fbdPush, rfl⟩

end Sys2Proof.Machine

namespace Sys2Proof.Machine

/-! # The address unit (spec/40_address.md) -/

/-! ## Fields of a word

A field of `n` bits from bit `i` on is written `(v.extractLsb' i n).setWidth 16`. -/

theorem and_mask_toNat (v : Word) (n : Nat) (hn : n ≤ 16) :
    (v &&& BitVec.ofNat 16 (2 ^ n - 1)).toNat = v.toNat % 2 ^ n := by
  have hmask : 2 ^ n - 1 < 2 ^ 16 := Nat.sub_one_lt_of_le (Nat.two_pow_pos n) (Nat.pow_le_pow_right (by omega) hn)
  rw [BitVec.toNat_and, BitVec.toNat_ofNat, Nat.mod_eq_of_lt hmask, Nat.and_two_pow_sub_one_eq_mod]

/-- Masking changes no value in range. -/
theorem and_mask_of_lt {v : Word} {n : Nat} (hn : n ≤ 16) (hv : v.toNat < 2 ^ n) :
    v &&& BitVec.ofNat 16 (2 ^ n - 1) = v := by
  rw [← BitVec.toNat_inj, and_mask_toNat v n hn, Nat.mod_eq_of_lt hv]

/-- Masking keeps the low bits. -/
theorem extractLsb'_and_mask (v : Word) (n : Nat) (hn : n ≤ 16) :
    (v &&& BitVec.ofNat 16 (2 ^ n - 1)).extractLsb' 0 n = v.extractLsb' 0 n := by
  rw [← BitVec.toNat_inj]
  simp only [BitVec.extractLsb'_toNat, and_mask_toNat v n hn, Nat.shiftRight_zero, Nat.mod_mod]

theorem field_toNat (v : Word) (i n : Nat) (hn : n ≤ 16) :
    ((v.extractLsb' i n).setWidth 16).toNat = v.toNat / 2 ^ i % 2 ^ n := by
  rw [BitVec.toNat_setWidth_of_le hn, BitVec.extractLsb'_toNat, Nat.shiftRight_eq_div_pow]

/-- Shifting right and masking gives a field. -/
theorem shiftRight_and_mask (v : Word) (i n : Nat) (hn : n ≤ 16) :
    (v >>> i) &&& BitVec.ofNat 16 (2 ^ n - 1) = (v.extractLsb' i n).setWidth 16 := by
  rw [← BitVec.toNat_inj, and_mask_toNat _ n hn, field_toNat v i n hn, BitVec.toNat_ushiftRight,
    Nat.shiftRight_eq_div_pow]

/-! ## The fields of address words (R60, R61) -/

theorem groupMain_eq (v : Word) : groupMain v = (v.extractLsb' 11 5).setWidth 16 :=
  shiftRight_and_mask v 11 5 (by decide)

theorem groupMiddle_eq (v : Word) : groupMiddle v = (v.extractLsb' 8 3).setWidth 16 :=
  shiftRight_and_mask v 8 3 (by decide)

theorem groupSub_eq (v : Word) : groupSub v = (v.extractLsb' 0 8).setWidth 16 :=
  shiftRight_and_mask v 0 8 (by decide)

/-- The mask of R61 has five bits, of which only four are above bit 12 of a word. -/
theorem indivArea_eq (v : Word) : indivArea v = (v.extractLsb' 12 4).setWidth 16 := by
  have hmask : indivArea v = (v.extractLsb' 12 5).setWidth 16 := shiftRight_and_mask v 12 5 (by decide)
  have := v.isLt
  rw [hmask, ← BitVec.toNat_inj, field_toNat v 12 5 (by decide), field_toNat v 12 4 (by decide)]
  omega

theorem indivLine_eq (v : Word) : indivLine v = (v.extractLsb' 8 3).setWidth 16 := groupMiddle_eq v

theorem indivDevice_eq (v : Word) : indivDevice v = (v.extractLsb' 0 8).setWidth 16 := groupSub_eq v

theorem groupMain_toNat (v : Word) : (groupMain v).toNat = v.toNat / 2048 % 32 := by
  rw [groupMain_eq]
  exact field_toNat v 11 5 (by decide)

theorem groupMiddle_toNat (v : Word) : (groupMiddle v).toNat = v.toNat / 256 % 8 := by
  rw [groupMiddle_eq]
  exact field_toNat v 8 3 (by decide)

theorem groupSub_toNat (v : Word) : (groupSub v).toNat = v.toNat % 256 := and_mask_toNat v 8 (by decide)

theorem indivArea_toNat (v : Word) : (indivArea v).toNat = v.toNat / 4096 % 16 := by
  rw [indivArea_eq]
  exact field_toNat v 12 4 (by decide)

/-! ## The word of three fields (R63) -/

theorem groupWord_toNat (a b c : Word) :
    (groupWord a b c).toNat = 2048 * (a.toNat % 32) + 256 * (b.toNat % 8) + c.toNat % 256 := by
  rw [groupWord, groupWordNat_eq, BitVec.toNat_ofNat]
  omega

theorem groupWord_eq_append (a b c : Word) :
    groupWord a b c = (a.extractLsb' 0 5 ++ b.extractLsb' 0 3 ++ c.extractLsb' 0 8 : BitVec (5 + 3 + 8)) := by
  apply BitVec.eq_of_toNat_eq
  rw [groupWord_toNat, BitVec.toNat_append, ← Nat.shiftLeft_add_eq_or_of_lt (BitVec.isLt _), BitVec.toNat_append,
    ← Nat.shiftLeft_add_eq_or_of_lt (BitVec.isLt _)]
  simp only [BitVec.extractLsb'_toNat, Nat.shiftLeft_eq, Nat.shiftRight_zero]
  omega

theorem groupWord_congr {a b c a' b' c' : Word} (ha : a.extractLsb' 0 5 = a'.extractLsb' 0 5)
    (hb : b.extractLsb' 0 3 = b'.extractLsb' 0 3) (hc : c.extractLsb' 0 8 = c'.extractLsb' 0 8) :
    groupWord a b c = groupWord a' b' c' := by
  rw [groupWord_eq_append, groupWord_eq_append, ha, hb, hc]

theorem groupWord_and_masks (a b c : Word) :
    groupWord (a &&& 0x1F#16) (b &&& 0x07#16) (c &&& 0xFF#16) = groupWord a b c :=
  groupWord_congr (extractLsb'_and_mask a 5 (by decide)) (extractLsb'_and_mask b 3 (by decide))
    (extractLsb'_and_mask c 8 (by decide))

/-! ### Round trips (R103) -/

/-- The fields of a word make up the word. -/
theorem groupWord_fields (w : Word) : groupWord (groupMain w) (groupMiddle w) (groupSub w) = w := by
  have := w.isLt
  rw [← BitVec.toNat_inj, groupWord_toNat, groupMain_toNat, groupMiddle_toNat, groupSub_toNat]
  omega

theorem groupMain_groupWord (a b c : Word) : groupMain (groupWord a b c) = a &&& 0x1F#16 := by
  have hmask : (a &&& 0x1F#16).toNat = a.toNat % 32 := and_mask_toNat a 5 (by decide)
  rw [← BitVec.toNat_inj, groupMain_toNat, groupWord_toNat, hmask]
  omega

theorem groupMiddle_groupWord (a b c : Word) : groupMiddle (groupWord a b c) = b &&& 0x07#16 := by
  have hmask : (b &&& 0x07#16).toNat = b.toNat % 8 := and_mask_toNat b 3 (by decide)
  rw [← BitVec.toNat_inj, groupMiddle_toNat, groupWord_toNat, hmask]
  omega

theorem groupSub_groupWord (a b c : Word) : groupSub (groupWord a b c) = c &&& 0xFF#16 := by
  have hmask : (c &&& 0xFF#16).toNat = c.toNat % 256 := and_mask_toNat c 8 (by decide)
  rw [← BitVec.toNat_inj, groupSub_toNat, groupWord_toNat, hmask]
  omega

/-! ### What an individual address loses (R107) -/

/-- The only words whose three fields are zero are zero and bit 11 alone. -/
theorem indiv_fields_eq_zero_iff (x : Word) :
    (indivArea x = 0#16 ∧ indivLine x = 0#16 ∧ indivDevice x = 0#16) ↔ x = 0#16 ∨ x = 0x0800#16 := by
  have hline : (indivLine x).toNat = x.toNat / 256 % 8 := groupMiddle_toNat x
  have hdevice : (indivDevice x).toNat = x.toNat % 256 := groupSub_toNat x
  have := x.isLt
  simp only [← BitVec.toNat_inj, indivArea_toNat, hline, hdevice, BitVec.toNat_ofNat]
  omega

/-- Two words agree in a field where the bits they differ in lie outside it. -/
theorem field_xor_eq_zero_iff (a a' : Word) (i n : Nat) :
    ((a ^^^ a').extractLsb' i n).setWidth 16 = 0#16 ↔
      (a.extractLsb' i n).setWidth 16 = (a'.extractLsb' i n).setWidth 16 := by
  rw [BitVec.extractLsb'_xor, BitVec.setWidth_xor, BitVec.xor_eq_zero_iff]

/-- Two words share all three fields exactly when they differ at most in bit 11. -/
theorem indiv_fields_eq_iff (a a' : Word) :
    (indivArea a = indivArea a' ∧ indivLine a = indivLine a' ∧ indivDevice a = indivDevice a') ↔
      a' = a ∨ a' = a ^^^ 0x0800#16 := by
  have hsame : a ^^^ a' = 0#16 ↔ a' = a := BitVec.xor_eq_zero_iff.trans eq_comm
  have hflip : a ^^^ a' = 0x0800#16 ↔ a' = a ^^^ 0x0800#16 := by
    rw [← BitVec.xor_right_inj a, ← BitVec.xor_assoc, BitVec.xor_self, BitVec.zero_xor]
  rw [← hsame, ← hflip, ← indiv_fields_eq_zero_iff]
  simp only [indivArea_eq, indivLine_eq, indivDevice_eq, field_xor_eq_zero_iff]

/-! ## The three commands -/

theorem exec_gaPack (a b c : Word) (s : State) :
    exec (.gaPack a b c) s = .next (s.respond (wordResponse (groupWord a b c))) := rfl

theorem exec_gaUnpack (a : Word) (s : State) :
    exec (.gaUnpack a) s = .next (s.respond (wordsResponse (groupMain a) (groupMiddle a) (groupSub a))) := rfl

theorem exec_iaUnpack (a : Word) (s : State) :
    exec (.iaUnpack a) s = .next (s.respond (wordsResponse (indivArea a) (indivLine a) (indivDevice a))) := rfl

theorem respond_inj (s : State) (r r' : Response) : s.respond r = s.respond r' ↔ r = r' := by
  simp [State.respond]

theorem wordsResponse_inj (w0 w1 w2 x0 x1 x2 : Word) :
    wordsResponse w0 w1 w2 = wordsResponse x0 x1 x2 ↔ w0 = x0 ∧ w1 = x1 ∧ w2 = x2 := by
  simp [wordsResponse]

/-- IA_UNPACK gives two words the same answer exactly where their fields agree. -/
theorem exec_iaUnpack_eq_iff (a a' : Word) (s : State) :
    exec (.iaUnpack a) s = exec (.iaUnpack a') s ↔
      indivArea a = indivArea a' ∧ indivLine a = indivLine a' ∧ indivDevice a = indivDevice a' := by
  rw [exec_iaUnpack, exec_iaUnpack, Host.Outcome.next.injEq, respond_inj, wordsResponse_inj]

/-- GA_UNPACK of the word GA_PACK gives: the masked operands. -/
theorem exec_gaUnpack_groupWord (a b c : Word) (s : State) :
    exec (.gaUnpack (groupWord a b c)) s =
      .next (s.respond (wordsResponse (a &&& 0x1F#16) (b &&& 0x07#16) (c &&& 0xFF#16))) := by
  rw [exec_gaUnpack, groupMain_groupWord, groupMiddle_groupWord, groupSub_groupWord]

/-- Operands in range come back as they were. -/
theorem exec_gaUnpack_groupWord_of_le {a b c : Word} (ha : a.toNat ≤ 31) (hb : b.toNat ≤ 7) (hc : c.toNat ≤ 255)
    (s : State) : exec (.gaUnpack (groupWord a b c)) s = .next (s.respond (wordsResponse a b c)) := by
  have hmain : a &&& 0x1F#16 = a := and_mask_of_lt (n := 5) (by decide) (by omega)
  have hmiddle : b &&& 0x07#16 = b := and_mask_of_lt (n := 3) (by decide) (by omega)
  have hsub : c &&& 0xFF#16 = c := and_mask_of_lt (n := 8) (by decide) (by omega)
  rw [exec_gaUnpack_groupWord, hmain, hmiddle, hsub]

/-- Settles O15, by `groupWord_eq_append`. -/
theorem gaPackPacksTheMaskedFields : Obligations.GaPackPacksTheMaskedFields := by
  refine ⟨fun r hop => decode_of_op (m := .gaPack) hop, fun a b c s => ?_⟩
  rw [exec_gaPack, groupWord_eq_append]
  rfl

/-- Settles O16, by `groupWord_and_masks` and `groupWord_congr`. -/
theorem gaPackMaskingLaw : Obligations.GaPackMaskingLaw := by
  refine fun a b c s => ⟨?_, fun a' b' c' ha hb hc => ?_⟩
  · rw [exec_gaPack, exec_gaPack, groupWord_and_masks]
  · rw [exec_gaPack, exec_gaPack, groupWord_congr ha hb hc]

/-- Settles O17, field by field. -/
theorem gaUnpackGivesTheThreeFields : Obligations.GaUnpackGivesTheThreeFields := by
  refine ⟨fun r hop => decode_of_op (m := .gaUnpack) hop, fun a s => ?_⟩
  rw [exec_gaUnpack, groupMain_eq, groupMiddle_eq, groupSub_eq]
  rfl

/-- Settles O18: `groupWord_fields` one way, `exec_gaUnpack_groupWord` the other. -/
theorem groupAddressRoundTrips : Obligations.GroupAddressRoundTrips := by
  refine ⟨fun w s => ⟨_, _, _, exec_gaUnpack w s, ?_⟩, fun a b c s => ⟨_, exec_gaPack a b c s, ?_, ?_⟩⟩
  · rw [exec_gaPack, groupWord_fields]
    rfl
  · exact exec_gaUnpack_groupWord a b c s
  · exact fun ha hb hc => exec_gaUnpack_groupWord_of_le ha hb hc s

/-- Settles O19: the answer of `exec_gaUnpack`, its fields bounded by their arithmetic. -/
theorem gaUnpackIsTotalAndInRange : Obligations.GaUnpackIsTotalAndInRange := by
  refine fun a s => ⟨_, _, _, exec_gaUnpack a s, ?_⟩
  rw [groupMain_toNat, groupMiddle_toNat, groupSub_toNat]
  omega

/-- Settles O20, field by field. -/
theorem iaUnpackGivesTheThreeFields : Obligations.IaUnpackGivesTheThreeFields := by
  refine ⟨fun r hop => decode_of_op (m := .iaUnpack) hop, fun a s => ?_⟩
  rw [exec_iaUnpack, indivArea_eq, indivLine_eq, indivDevice_eq]
  rfl

/-- Settles O21: equal answers are equal fields, and those are decided by the bits in which the words differ. -/
theorem iaUnpackLosesExactlyBitEleven : Obligations.IaUnpackLosesExactlyBitEleven := by
  refine ⟨fun a s => ⟨_, _, _, exec_iaUnpack a s, indivArea_eq a, ?_⟩, fun a a' s => ?_⟩
  · rw [indivArea_toNat]
    omega
  · exact (exec_iaUnpack_eq_iff a a' s).trans (indiv_fields_eq_iff a a')

/-! ## The canonical text of a group address (R104) -/

/-- The canonical decimal text of a natural spells it. -/
theorem spellsDigits_decText (n : Nat) : spellsDigits 10 (decText n) n := by
  induction n using Nat.strong_induction_on with
  | _ n ih =>
    by_cases hlt : n < 10
    · refine ⟨[n], List.cons_ne_nil _ _, by simp, ?_⟩
      rw [decText, Nat.toDigits_of_lt_base hlt]
      exact .cons ⟨hlt, .inl rfl⟩ .nil
    · obtain ⟨ds, -, hval, hspell⟩ := ih (n / 10) (by omega)
      refine ⟨ds ++ [n % 10], by simp, ?_, ?_⟩
      · rw [List.foldl_append, ← hval, List.foldl_cons, List.foldl_nil]
        omega
      · rw [decText, Nat.toDigits_of_base_le (by decide) (by omega)]
        exact List.rel_append hspell (.cons ⟨by omega, .inl rfl⟩ .nil)

theorem digitsNat_decText (n : Nat) : digitsNat 10 decDigit (decText n) = some n :=
  digitsNat_of_spellsDigits readsDigits_decimal (spellsDigits_decText n)

/-- Three parts that denote naturals, slashes between, parse to these naturals (R88). -/
theorem parseGroupText_of_parts {p0 p1 p2 : Text} {n0 n1 n2 : Nat} (h0 : digitsNat 10 decDigit p0 = some n0)
    (h1 : digitsNat 10 decDigit p1 = some n1) (h2 : digitsNat 10 decDigit p2 = some n2) :
    parseGroupText (p0 ++ ['/'] ++ p1 ++ ['/'] ++ p2) = .ok (n0, n1, n2) := by
  have hslash {p : Text} {n : Nat} (h : digitsNat 10 decDigit p = some n) : '/' ∉ p :=
    slash_notMem_of_isDecimal ((digitsNat_decimal_isSome p).mp (Option.isSome_of_eq_some h))
  have hsplit : (p0 ++ ['/'] ++ p1 ++ ['/'] ++ p2).splitOn '/' = [p0, p1, p2] := by
    have hjoin := List.splitOn_intercalate (ls := [p0, p1, p2]) '/'
      (by simpa using ⟨hslash h0, hslash h1, hslash h2⟩) (List.cons_ne_nil _ _)
    simpa [List.intercalate] using hjoin
  simp only [parseGroupText, hsplit, List.map_cons, List.map_nil, h0, h1, h2]

/-- The canonical text parses back to the numbers it prints (R88, R89). -/
theorem parseGroupText_printGroup (main middle sub : Nat) :
    parseGroupText (printGroup main middle sub) = .ok (main, middle, sub) :=
  parseGroupText_of_parts (digitsNat_decText main) (digitsNat_decText middle) (digitsNat_decText sub)

/-- Settles O49: the text parses to its numbers (`parseGroupText_printGroup`), and as operands in range they survive
GA_PACK and GA_UNPACK (`exec_gaUnpack_groupWord_of_le`). -/
theorem canonicalTextRoundTrips : Obligations.CanonicalTextRoundTrips := by
  intro main middle sub s hmain hmiddle hsub
  have toNat_of_le {n : Nat} (hn : n ≤ 255) : (BitVec.ofNat 16 n).toNat = n := by
    rw [BitVec.toNat_ofNat]
    omega
  have toNat_main := toNat_of_le (hmain.trans (by decide))
  have toNat_middle := toNat_of_le (hmiddle.trans (by decide))
  have toNat_sub := toNat_of_le hsub
  refine ⟨_, _, _, _, _, groupAddressPack_of_parts (parseGroupText_printGroup main middle sub), exec_gaPack _ _ _ s,
    exec_gaUnpack_groupWord_of_le (toNat_main.trans_le hmain) (toNat_middle.trans_le hmiddle)
      (toNat_sub.trans_le hsub) s, ?_⟩
  rw [toNat_main, toNat_middle, toNat_sub]

end Sys2Proof.Machine

namespace Sys2Proof.Machine

/-! # The frame packer (spec/41_frame_encode.md) -/

/-! ## Fields and bodies (R87, R120, R121) -/

theorem entryBytes_u16 (v : Word) : entryBytes ⟨.u16, v⟩ = bytes16 v := rfl

theorem entryBytes_u8 (v : Word) : entryBytes ⟨.u8, v⟩ = [BitVec.ofNat 8 v.toNat] := rfl

/-- A byte widened to a u8 entry's value serializes to itself. -/
theorem entryBytes_setWidth (b : Byte) : entryBytes ⟨.u8, b.setWidth 16⟩ = [b] := by
  rw [entryBytes_u8, BitVec.toNat_setWidth_of_le (by decide), BitVec.ofNat_toNat, BitVec.setWidth_eq]

theorem entryFits_setWidth (b : Byte) : entryFits ⟨.u8, b.setWidth 16⟩ = true := by
  have := b.isLt
  rw [entryFits_iff, BitVec.toNat_setWidth_of_le (by decide)]
  omega

theorem all_entryFits_iff (fl : List FieldEntry) :
    fl.all entryFits = true ↔ ∀ e ∈ fl, e.w = .u8 → e.val.toNat ≤ 0xFF := by
  simp only [List.all_eq_true, entryFits_iff]

theorem all_entryFits_eq_false_iff (fl : List FieldEntry) :
    fl.all entryFits = false ↔ ∃ e ∈ fl, e.w = .u8 ∧ 0xFF < e.val.toNat := by
  rw [← Bool.not_eq_true, all_entryFits_iff]
  push Not
  rfl

/-- The message type alone is a body of the least size, so FRAME_PACK's lower bound never refuses (R122). -/
theorem bodyMin_le_frameBody_length (a : Word) (fl : List FieldEntry) : Config.bodyMin ≤ (frameBody a fl).length := by
  rw [frameBody_length]
  exact Nat.le_add_right _ _

theorem framePackWf_iff (a : Word) (fl : List FieldEntry) :
    framePackWf a fl = true ↔ fl.all entryFits = true ∧ (frameBody a fl).length ≤ Config.bodyMax := by
  simp [framePackWf, bodyMin_le_frameBody_length]

/-! ## FRAME_PACK's three outcomes (R120, R172) -/

theorem exec_framePack_of_not_fits {fl : List FieldEntry} (h : fl.all entryFits = false) (a : Word) (s : State) :
    exec (.framePack a fl) s = .next (s.respond (statusOnly .errFieldRange)) :=
  if_pos h

theorem exec_framePack_of_fits {fl : List FieldEntry} (h : fl.all entryFits = true) (a : Word) (s : State) :
    exec (.framePack a fl) s =
      if Config.bodyMax < (frameBody a fl).length then .next (s.respond (statusOnly .errPayloadTooLarge))
      else .next (s.respond (frameResponse (framed (frameBody a fl)))) :=
  (if_neg (by simp [h])).trans (if_neg (Nat.not_lt.mpr (bodyMin_le_frameBody_length a fl)))

theorem exec_framePack_of_large {a : Word} {fl : List FieldEntry} (hfits : fl.all entryFits = true)
    (hlarge : Config.bodyMax < (frameBody a fl).length) (s : State) :
    exec (.framePack a fl) s = .next (s.respond (statusOnly .errPayloadTooLarge)) :=
  (exec_framePack_of_fits hfits a s).trans (if_pos hlarge)

theorem exec_framePack_of_wf {a : Word} {fl : List FieldEntry} (h : framePackWf a fl = true) (s : State) :
    exec (.framePack a fl) s = .next (s.respond (frameResponse (framed (frameBody a fl)))) := by
  obtain ⟨hfits, hlen⟩ := (framePackWf_iff a fl).mp h
  exact (exec_framePack_of_fits hfits a s).trans (if_neg hlen.not_gt)

/-- The operands of FRAME_PACK have a field out of range, or all fit and the body is too large, or are well-formed. -/
theorem framePack_operand_cases (a : Word) (fl : List FieldEntry) :
    fl.all entryFits = false ∨ (fl.all entryFits = true ∧ Config.bodyMax < (frameBody a fl).length) ∨
      framePackWf a fl = true := by
  rw [framePackWf_iff]
  cases fl.all entryFits with
  | false => exact .inl rfl
  | true => exact .inr ((Nat.lt_or_ge _ _).imp (⟨rfl, ·⟩) (⟨rfl, ·⟩))

/-- FRAME_PACK gives a frame only for well-formed operands, and only the frame of their body. -/
theorem exec_framePack_eq_frame {a : Word} {fl : List FieldEntry} {s : State} {f : Bytes}
    (h : exec (.framePack a fl) s = .next (s.respond (frameResponse f))) :
    framePackWf a fl = true ∧ f = framed (frameBody a fl) := by
  obtain hrange | ⟨hfits, hlarge⟩ | hwf := framePack_operand_cases a fl
  · rw [exec_framePack_of_not_fits hrange, Host.Outcome.next.injEq, respond_inj] at h
    exact absurd (congrArg Response.status h) nofun
  · rw [exec_framePack_of_large hfits hlarge, Host.Outcome.next.injEq, respond_inj] at h
    exact absurd (congrArg Response.status h) nofun
  · rw [exec_framePack_of_wf hwf, Host.Outcome.next.injEq, respond_inj] at h
    exact ⟨hwf, (Option.some.inj (congrArg Response.rseq h)).symm⟩

/-! ## The fixed frames (R123 to R125) -/

theorem exec_mkOpen (s : State) :
    exec .mkOpen s = .next (s.respond (frameResponse
      [0x00#8, 0x05#8, 0x00#8, 0x26#8, 0x00#8, 0x00#8, 0x00#8])) := rfl

theorem exec_mkRead (a : Word) (s : State) :
    exec (.mkRead a) s = .next (s.respond (frameResponse (groupPacket a 0x00#8))) := rfl

theorem exec_mkWrite_of_le {d : Byte} (h : d.toNat ≤ 1) (a : Word) (s : State) :
    exec (.mkWrite a d) s = .next (s.respond (frameResponse (groupPacket a (0x80#8 ||| d)))) :=
  if_neg (show ¬ 1 < d.toNat from h.not_gt)

theorem exec_mkWrite_of_gt {d : Byte} (h : 1 < d.toNat) (a : Word) (s : State) :
    exec (.mkWrite a d) s = .next (s.respond (statusOnly .errFieldRange)) :=
  if_pos h

theorem frameBody_groupPacket (a : Word) (cmd : Byte) :
    frameBody 0x27#16 [⟨.u16, a⟩, ⟨.u8, 0#16⟩, ⟨.u8, cmd.setWidth 16⟩] =
      bytes16 0x27#16 ++ (bytes16 a ++ [0x00#8, cmd]) := by
  rw [frameBody, fieldBytes_cons, fieldBytes_cons, fieldBytes_cons, entryBytes_setWidth]
  rfl

/-- An outbound group packet is the frame that FRAME_PACK gives for its message type and fields (R126). -/
theorem exec_framePack_groupPacket (a : Word) (cmd : Byte) (s : State) :
    exec (.framePack 0x27#16 [⟨.u16, a⟩, ⟨.u8, 0#16⟩, ⟨.u8, cmd.setWidth 16⟩]) s =
      .next (s.respond (frameResponse (groupPacket a cmd))) := by
  have hfits : [⟨.u16, a⟩, ⟨.u8, 0#16⟩, ⟨.u8, cmd.setWidth 16⟩].all entryFits = true := by
    rw [List.all_cons, List.all_cons, List.all_cons, entryFits_setWidth]
    rfl
  have hlen : (frameBody 0x27#16 [⟨.u16, a⟩, ⟨.u8, 0#16⟩, ⟨.u8, cmd.setWidth 16⟩]).length = 6 := by
    rw [frameBody_groupPacket]
    rfl
  rw [exec_framePack_of_wf ((framePackWf_iff _ _).mpr ⟨hfits, by rw [hlen]; decide⟩), framed, hlen,
    frameBody_groupPacket]
  rfl

/-! ## The length law (R127) -/

theorem framed_length (body : Bytes) : (framed body).length = body.length + 2 := by
  rw [framed, List.length_append, bytes16_length, Nat.add_comm]

theorem declaredLen_framed (body : Bytes) : declaredLen (framed body) = BitVec.ofNat 16 body.length :=
  be16_bytes16 _

/-- A body that its length field can count makes a frame (R64, R65). -/
theorem isFrame_framed {body : Bytes} (h : body.length ≤ Config.bodyMax) : isFrame (framed body) := by
  unfold Config.bodyMax at h
  rw [isFrame, framed_length, declaredLen_framed, BitVec.toNat_ofNat]
  omega

/-! ### What the detector does with a frame (R145, R149)

The detector that holds `p` takes byte `d`: where `p ++ [d]` is a frame it is completed, and else it is held. -/

@[simp] theorem fbdHolding_buf (p : Bytes) : (fbdHolding p).buf = p := by
  unfold fbdHolding
  split_ifs <;> rfl

theorem fbdHolding_of_lt {p : Bytes} (h : p.length < 2) : fbdHolding p = { st := .awaitLen, buf := p, len := 0#16 } :=
  if_pos h

theorem fbdHolding_of_ge {p : Bytes} (h : 2 ≤ p.length) :
    fbdHolding p = { st := .awaitBody, buf := p, len := declaredLen p } :=
  if_neg h.not_gt

theorem fbdHolding_eta (p : Bytes) :
    { st := (fbdHolding p).st, buf := p, len := (fbdHolding p).len } = fbdHolding p := by
  unfold fbdHolding
  split_ifs <;> rfl

/-- The phase and length that a byte gives are those of holding one byte more. -/
theorem pushed_fbdHolding (p : Bytes) (d : Byte) :
    pushedSt (fbdHolding p) (p ++ [d]) = (fbdHolding (p ++ [d])).st ∧
      pushedLen (fbdHolding p) (p ++ [d]) = (fbdHolding (p ++ [d])).len := by
  have hlen : (p ++ [d]).length = p.length + 1 := List.length_append
  unfold pushedSt pushedLen
  obtain hlt | heq | hgt := Nat.lt_trichotomy (p ++ [d]).length 2
  · rw [if_neg hlt.ne, if_neg hlt.ne, fbdHolding_of_lt hlt, fbdHolding_of_lt (by omega)]
    exact ⟨rfl, rfl⟩
  · rw [if_pos heq, if_pos heq, fbdHolding_of_ge heq.ge]
    exact ⟨rfl, rfl⟩
  · rw [if_neg hgt.ne', if_neg hgt.ne', fbdHolding_of_ge hgt.le, fbdHolding_of_ge (by omega),
      declaredLen_append p [d] (by omega)]
    exact ⟨rfl, rfl⟩

theorem completes_fbdHolding_iff (p : Bytes) (d : Byte) :
    completes (fbdHolding p) (p ++ [d]) ↔ isFrame (p ++ [d]) := by
  obtain ⟨hst, hlen⟩ := pushed_fbdHolding p d
  rw [completes, hst, hlen]
  obtain hlt | hge := Nat.lt_or_ge (p ++ [d]).length 2
  · rw [fbdHolding_of_lt hlt]
    exact iff_of_false nofun fun h => hlt.not_ge h.1
  · rw [fbdHolding_of_ge hge]
    exact and_congr_left' (iff_of_true rfl hge)

theorem pushByte_fbdHolding_of_isFrame {p : Bytes} {d : Byte} (h : isFrame (p ++ [d])) :
    pushByte (fbdHolding p) d = (Fbd.reset, doneResponse (decodeFrame (p ++ [d]))) := by
  rw [pushByte_of_completes] <;> rw [fbdHolding_buf]
  exact (completes_fbdHolding_iff p d).mpr h

theorem pushByte_fbdHolding_of_not_isFrame {p : Bytes} {d : Byte} (h : ¬ isFrame (p ++ [d])) :
    pushByte (fbdHolding p) d = (fbdHolding (p ++ [d]), pendingResponse) := by
  obtain ⟨hst, hlen⟩ := pushed_fbdHolding p d
  rw [pushByte_of_not_completes] <;> rw [fbdHolding_buf]
  · rw [hst, hlen, fbdHolding_eta]
  · exact fun hc => h ((completes_fbdHolding_iff p d).mp hc)

theorem feedResponses_append (f : Fbd) (xs ys : Bytes) :
    feedResponses f (xs ++ ys) =
      ((feedResponses (feedResponses f xs).1 ys).1,
        (feedResponses f xs).2 ++ (feedResponses (feedResponses f xs).1 ys).2) := by
  induction xs generalizing f with
  | nil => rfl
  | cons x xs ih => rw [List.cons_append, feedResponses_cons, ih, feedResponses_cons, List.cons_append]

theorem not_isFrame_of_isFramePrefix {p : Bytes} (h : isFramePrefix p) : ¬ isFrame p :=
  fun ⟨hhead, hlen⟩ => h.elim hhead.not_gt hlen.not_lt

/-- What comes before the last byte of a frame, or of the beginning of one, is the beginning of a frame. -/
theorem isFramePrefix_of_concat {p : Bytes} {d : Byte} (h : isFrame (p ++ [d]) ∨ isFramePrefix (p ++ [d])) :
    isFramePrefix p := by
  have hlen : (p ++ [d]).length = p.length + 1 := List.length_append
  obtain hlt | hge := Nat.lt_or_ge p.length 2
  · exact .inl hlt
  · rw [isFrame, isFramePrefix, declaredLen_append p [d] hge] at h
    exact .inr (by omega)

/-- From reset, the beginning of a frame completes nothing and is held. -/
theorem feedResponses_of_isFramePrefix {p : Bytes} (h : isFramePrefix p) :
    feedResponses Fbd.reset p = (fbdHolding p, List.replicate p.length pendingResponse) := by
  induction p using List.reverseRecOn with
  | nil => rfl
  | append_singleton p d ih =>
    rw [feedResponses_append, ih (isFramePrefix_of_concat (.inr h)), feedResponses_cons,
      pushByte_fbdHolding_of_not_isFrame (not_isFrame_of_isFramePrefix h), feedResponses_nil, List.length_append,
      List.replicate_add]
    rfl

/-- From reset, the bytes of a frame complete it exactly at the last one. -/
theorem feedResponses_of_isFrame {f : Bytes} (h : isFrame f) :
    feedResponses Fbd.reset f =
      (Fbd.reset, List.replicate (f.length - 1) pendingResponse ++ [doneResponse (decodeFrame f)]) := by
  obtain rfl | ⟨p, d, rfl⟩ := f.eq_nil_or_concat'
  · exact absurd h.1 (by decide)
  · rw [feedResponses_append, feedResponses_of_isFramePrefix (isFramePrefix_of_concat (.inl h)), feedResponses_cons,
      pushByte_fbdHolding_of_isFrame h, feedResponses_nil, List.length_append]
    rfl

/-! ## The status a command answers (R170) -/

theorem exec_frameDecode_of_isFrame {seq : Bytes} (h : isFrame seq) (s : State) :
    exec (.frameDecode seq) s = .next (s.respond (decodeResponse (decodeFrame seq))) :=
  if_pos h

theorem exec_frameDecode_of_not_isFrame {seq : Bytes} (h : ¬ isFrame seq) (s : State) :
    exec (.frameDecode seq) s = .next (s.respond (statusOnly .errFrameLength)) :=
  if_neg h

/-- What makes a command's operands ill-formed (R120, R124, R144), and the error that answers it. -/
inductive RefusedWith : Instr → Status → Prop
  | fieldRange {a : Word} {fl : List FieldEntry} (h : fl.all entryFits = false) :
      RefusedWith (.framePack a fl) .errFieldRange
  | payloadTooLarge {a : Word} {fl : List FieldEntry} (h : Config.bodyMax < (frameBody a fl).length) :
      RefusedWith (.framePack a fl) .errPayloadTooLarge
  | writeValue {a : Word} {d : Byte} (h : 1 < d.toNat) : RefusedWith (.mkWrite a d) .errFieldRange
  | frameLength {seq : Bytes} (h : ¬ isFrame seq) : RefusedWith (.frameDecode seq) .errFrameLength

theorem RefusedWith.not_wf {i : Instr} {e : Status} (h : RefusedWith i e) : ¬ i.wf = true := by
  cases h with
  | fieldRange h => exact fun hwf => absurd ((framePackWf_iff _ _).mp hwf).1 (by simp [h])
  | payloadTooLarge h => exact fun hwf => h.not_ge ((framePackWf_iff _ _).mp hwf).2
  | writeValue h => exact fun hwf => h.not_ge (of_decide_eq_true hwf)
  | frameLength h => exact fun hwf => h (of_decide_eq_true hwf)

/-- A command with well-formed operands answers OK, and any other the error that names its fault. -/
theorem exec_status (i : Instr) (s : State) :
    ∃ f r, exec i s = .next ((s.setFbd f).respond r) ∧
      ((i.wf = true ∧ r.status = .ok) ∨ RefusedWith i r.status) := by
  cases i with
  | framePack a fl =>
    obtain hrange | ⟨hfits, hlarge⟩ | hwf := framePack_operand_cases a fl
    · exact ⟨s.fbd, _, exec_framePack_of_not_fits hrange a s, .inr (.fieldRange hrange)⟩
    · exact ⟨s.fbd, _, exec_framePack_of_large hfits hlarge s, .inr (.payloadTooLarge hlarge)⟩
    · exact ⟨s.fbd, _, exec_framePack_of_wf hwf s, .inl ⟨hwf, rfl⟩⟩
  | mkWrite a d =>
    obtain hle | hgt := le_or_gt d.toNat 1
    · exact ⟨s.fbd, _, exec_mkWrite_of_le hle a s, .inl ⟨decide_eq_true hle, rfl⟩⟩
    · exact ⟨s.fbd, _, exec_mkWrite_of_gt hgt a s, .inr (.writeValue hgt)⟩
  | frameDecode seq =>
    by_cases h : isFrame seq
    · exact ⟨s.fbd, _, exec_frameDecode_of_isFrame h s, .inl ⟨decide_eq_true h, rfl⟩⟩
    · exact ⟨s.fbd, _, exec_frameDecode_of_not_isFrame h s, .inr (.frameLength h)⟩
  | fbdPush d =>
    refine ⟨_, _, exec_fbdPush d s, .inl ⟨rfl, ?_⟩⟩
    obtain ⟨-, hpush⟩ | ⟨-, hpush⟩ := pushByte_cases s.fbd d <;> rw [hpush] <;> rfl
  | fbdClear => exact ⟨_, _, exec_fbdClear s, .inl ⟨rfl, rfl⟩⟩
  | gaPack | gaUnpack | iaUnpack | mkOpen | mkRead => exact ⟨s.fbd, _, rfl, .inl ⟨rfl, rfl⟩⟩

/-! ## The statements -/

/-- Settles O24: the frame is `framed` of the body, `exec_framePack_eq_frame`, which is a frame, and the detector
delimits every frame, `feedResponses_of_isFrame`. -/
theorem framePackLengthLaw : Obligations.FramePackLengthLaw := by
  intro a fl s f h
  obtain ⟨hwf, rfl⟩ := exec_framePack_eq_frame h
  have hframe := isFrame_framed ((framePackWf_iff a fl).mp hwf).2
  have hlen : (framed (frameBody a fl)).length = 4 + (fieldBytes fl).length := by
    rw [framed_length, frameBody_length]
    omega
  have hdeclared : (declaredLen (framed (frameBody a fl))).toNat = (framed (frameBody a fl)).length - 2 :=
    Nat.eq_sub_of_add_eq hframe.2.symm
  exact ⟨hlen, ⟨by omega, hdeclared, be16_bytes16 a⟩, hframe, feedResponses_of_isFrame hframe⟩

/-- Settles O23: the three equations of FRAME_PACK, with `all_entryFits_iff` for the fields. -/
theorem framePackBuildsTheFrame : Obligations.FramePackBuildsTheFrame := by
  refine ⟨fun r hop => decode_of_op (m := .framePack) hop, fun a fl s => ⟨fun hrange => ?_, fun hfits hlarge => ?_,
    fun hfits hlen => ?_⟩⟩
  · exact exec_framePack_of_not_fits ((all_entryFits_eq_false_iff fl).mpr hrange) a s
  · rw [← frameBody_length a] at hlarge
    exact exec_framePack_of_large ((all_entryFits_iff fl).mpr hfits) hlarge s
  · rw [← frameBody_length a] at hlen ⊢
    rw [exec_framePack_of_wf ((framePackWf_iff a fl).mpr ⟨(all_entryFits_iff fl).mpr hfits, hlen⟩), List.append_assoc]
    rfl

/-- Settles O28: MK_OPEN by its constant, MK_WRITE and MK_READ by `exec_framePack_groupPacket`. -/
theorem fixedFramesAreFramePackFrames : Obligations.FixedFramesAreFramePackFrames := by
  refine fun s => ⟨?_, fun a => ⟨fun d hd => ?_, ?_⟩⟩
  · rw [exec_mkOpen, exec_framePack_of_wf (by decide)]
    rfl
  · rw [exec_mkWrite_of_le hd, exec_framePack_groupPacket]
  · exact (exec_framePack_groupPacket a 0x00#8 s).symm

/-- Settles O44, by `exec_status`: each kind of fault names its command and its error. -/
theorem statusOkExactlyOnWellFormedOperands : Obligations.StatusOkExactlyOnWellFormedOperands := by
  intro i s s' r h hr
  obtain ⟨f, r', hexec, hstatus⟩ := exec_status i s
  obtain rfl : (s.setFbd f).respond r' = s' := Host.Outcome.next.inj (hexec.symm.trans h)
  obtain rfl : r' = r := by simpa using hr
  obtain ⟨hwf, hok⟩ | hrefused := hstatus
  · simp [hwf, hok]
  · have hwf := hrefused.not_wf
    generalize r'.status = e at hrefused
    cases hrefused <;> simp [hwf, mnemonicOfInstr]

/-- Settles O22, by `fieldBytes_cons` for each width. -/
theorem fieldsSerializeInListOrder : Obligations.FieldsSerializeInListOrder := by
  refine ⟨rfl, fun v fl => ?_, fun v fl _ => ?_⟩
  · rw [fieldBytes_cons, entryBytes_u16]
    rfl
  · rw [fieldBytes_cons, entryBytes_u8]
    rfl

/-- Settles O25. -/
theorem mkOpenGivesTheSessionOpenFrame : Obligations.MkOpenGivesTheSessionOpenFrame :=
  ⟨fun _ hop => decode_of_op (m := .mkOpen) hop, exec_mkOpen⟩

/-- Settles O26. -/
theorem mkWriteGivesTheWriteFrame : Obligations.MkWriteGivesTheWriteFrame :=
  ⟨fun _ hop => decode_of_op (m := .mkWrite) hop,
    fun a _ s => ⟨fun hle => exec_mkWrite_of_le hle a s, fun hgt => exec_mkWrite_of_gt hgt a s⟩⟩

/-- Settles O27. -/
theorem mkReadGivesTheReadFrame : Obligations.MkReadGivesTheReadFrame :=
  ⟨fun _ hop => decode_of_op (m := .mkRead) hop, exec_mkRead⟩

end Sys2Proof.Machine

namespace Sys2Proof.Machine

/-! # The frame decoder and the detector's stream (spec/42_frame_decode.md) -/

/-! ## Which frames give a telegram (R140, R141) -/

theorem decodeFrame_of_length_lt_four {f : Bytes} (h : f.length < 4) : decodeFrame f = .discardShort :=
  if_pos h

theorem decodeFrame_of_other_type {f : Bytes} (h : 4 ≤ f.length) (htype : wordAt f 2 ≠ Config.mtGroup) :
    decodeFrame f = .discardType :=
  (if_neg h.not_gt).trans (if_pos htype)

theorem decodeFrame_of_group {f : Bytes} (h : 4 ≤ f.length) (htype : wordAt f 2 = Config.mtGroup) :
    decodeFrame f = if f.length < Config.minEmit then .discardShort else .emit (telegramOf f) :=
  (if_neg h.not_gt).trans (if_neg (not_not_intro htype))

theorem decodeFrame_of_short_group {f : Bytes} (h : 4 ≤ f.length) (htype : wordAt f 2 = Config.mtGroup)
    (hshort : f.length < Config.minEmit) : decodeFrame f = .discardShort :=
  (decodeFrame_of_group h htype).trans (if_pos hshort)

theorem decodeFrame_of_long_group {f : Bytes} (hlong : Config.minEmit ≤ f.length)
    (htype : wordAt f 2 = Config.mtGroup) : decodeFrame f = .emit (telegramOf f) :=
  (decodeFrame_of_group (Nat.le_trans (by decide) hlong) htype).trans (if_neg hlong.not_gt)

/-! ## The telegram, byte by byte (R142, R143)

A field that lies in one byte of a word is a field of that byte. -/

theorem indivArea_be16 (h l : Byte) : (indivArea (be16 h l)).setWidth 5 = (h.extractLsb' 4 4).setWidth 5 := by
  rw [indivArea_eq, be16, BitVec.extractLsb'_append_eq_of_le (by decide), BitVec.setWidth_setWidth_of_le _ (by decide)]

theorem groupMain_be16 (h l : Byte) : (groupMain (be16 h l)).setWidth 5 = h.extractLsb' 3 5 := by
  rw [groupMain_eq, be16, BitVec.extractLsb'_append_eq_of_le (by decide), BitVec.setWidth_setWidth_of_le _ (by decide),
    BitVec.setWidth_eq]

theorem groupMiddle_be16 (h l : Byte) : (groupMiddle (be16 h l)).setWidth 3 = h.extractLsb' 0 3 := by
  rw [groupMiddle_eq, be16, BitVec.extractLsb'_append_eq_of_le (by decide),
    BitVec.setWidth_setWidth_of_le _ (by decide), BitVec.setWidth_eq]

theorem groupSub_be16 (h l : Byte) : (groupSub (be16 h l)).setWidth 8 = l := by
  rw [groupSub_eq, be16, BitVec.extractLsb'_append_eq_right, BitVec.setWidth_setWidth_of_le _ (by decide),
    BitVec.setWidth_eq]

theorem indivLine_be16 (h l : Byte) : (indivLine (be16 h l)).setWidth 3 = h.extractLsb' 0 3 := groupMiddle_be16 h l

theorem indivDevice_be16 (h l : Byte) : (indivDevice (be16 h l)).setWidth 8 = l := groupSub_be16 h l

theorem shortMask_eq (cmd : Byte) : (cmd &&& Config.shortMask).setWidth 6 = cmd.extractLsb' 0 6 := by
  rw [BitVec.setWidth_and, ← BitVec.setWidth_eq_extractLsb' (by decide)]
  exact BitVec.and_allOnes

/-- The value of a packet with bytes `data` after its command byte: no data makes it the shortest packet (R143). -/
theorem telegramValue_append {head : Bytes} (hhead : head.length = 9) (cmd : Byte) (data : Bytes) :
    telegramValue (head ++ cmd :: data) =
      if cmd.extractLsb' 6 2 = 0b00#2 then .read
      else if data = [] then .short (cmd.extractLsb' 0 6)
      else .raw data := by
  have hcmd : byteAt (head ++ cmd :: data) 9 = cmd := by simp [byteAt, ← hhead]
  have hlen : (head ++ cmd :: data).length = Config.minEmit ↔ data = [] := by
    simp [Config.minEmit, hhead, Nat.add_comm 9]
  have hdrop : (head ++ cmd :: data).drop 10 = data := by
    rw [List.append_cons, List.drop_left' (by simp [hhead])]
  simp only [telegramValue, hcmd, hlen, hdrop, shortMask_eq]
  rfl

theorem telegramOf_of_words {f : Bytes} {s1 s0 d1 d0 : Byte} (hsrc : wordAt f 4 = be16 s1 s0)
    (hdst : wordAt f 6 = be16 d1 d0) :
    telegramOf f = {
      src := s1 ++ s0
      dst := d1 ++ d0
      area := (s1.extractLsb' 4 4).setWidth 5
      line := s1.extractLsb' 0 3
      device := s0
      main := d1.extractLsb' 3 5
      middle := d1.extractLsb' 0 3
      sub := d0
      value := telegramValue f } := by
  rw [telegramOf, hsrc, hdst, indivArea_be16, indivLine_be16, indivDevice_be16, groupMain_be16, groupMiddle_be16,
    groupSub_be16]
  rfl

/-! ## The byte at offset 8 (R140, decision D11) -/

theorem byteAt_set_of_ne {f : Bytes} {i j : Nat} (h : i ≠ j) (x : Byte) : byteAt (f.set i x) j = byteAt f j := by
  simp [byteAt, h]

theorem wordAt_set_of_ne {f : Bytes} {i j : Nat} (h : i ≠ j) (h' : i ≠ j + 1) (x : Byte) :
    wordAt (f.set i x) j = wordAt f j := by
  rw [wordAt, wordAt, byteAt_set_of_ne h, byteAt_set_of_ne h']

theorem telegramValue_set_eight (f : Bytes) (x : Byte) : telegramValue (f.set 8 x) = telegramValue f := by
  rw [telegramValue, byteAt_set_of_ne (by decide), List.length_set, List.drop_set_of_lt (by decide)]
  rfl

theorem telegramOf_set_eight (f : Bytes) (x : Byte) : telegramOf (f.set 8 x) = telegramOf f := by
  simp only [telegramOf, telegramValue_set_eight, wordAt_set_of_ne (f := f) (i := 8) (j := 4) (by decide) (by decide),
    wordAt_set_of_ne (f := f) (i := 8) (j := 6) (by decide) (by decide)]

/-! ## Frames and the responses to them (R144, R145, R150) -/

theorem isFrame_iff_getElem (f : Bytes) :
    isFrame f ↔ ∃ h : 1 < f.length, f.length = (be16 f[0] f[1]).toNat + 2 :=
  ⟨fun ⟨hhead, hlen⟩ => ⟨hhead, by rwa [← wordAt_eq_getElem f 0 hhead]⟩,
    fun ⟨hhead, hlen⟩ => ⟨hhead, by rwa [← wordAt_eq_getElem f 0 hhead] at hlen⟩⟩

theorem doneResponse_of_discard {o : Decoded} (h : ∀ t, o ≠ .emit t) :
    doneResponse o = { statusOnly .ok with frameDone := some true, tgValid := some false } := by
  cases o with
  | emit t => exact absurd rfl (h t)
  | discardShort | discardType => rfl

theorem exec_fbdPush_of_completes {s : State} {d : Byte} (h : completes s.fbd (s.fbd.buf ++ [d])) :
    exec (.fbdPush d) s =
      .next ((s.setFbd Fbd.reset).respond (doneResponse (decodeFrame (s.fbd.buf ++ [d])))) := by
  rw [exec_fbdPush, pushByte_of_completes _ _ h]

theorem exec_fbdPush_of_not_completes {s : State} {d : Byte} (h : ¬ completes s.fbd (s.fbd.buf ++ [d])) :
    exec (.fbdPush d) s =
      .next ((s.setFbd {
        st := pushedSt s.fbd (s.fbd.buf ++ [d])
        buf := s.fbd.buf ++ [d]
        len := pushedLen s.fbd (s.fbd.buf ++ [d]) }).respond pendingResponse) := by
  rw [exec_fbdPush, pushByte_of_not_completes _ _ h]

theorem exec_fbdPush_of_discard {s : State} {d : Byte} (h : completes s.fbd (s.fbd.buf ++ [d]))
    (hdiscard : ∀ t, decodeFrame (s.fbd.buf ++ [d]) ≠ .emit t) :
    exec (.fbdPush d) s = .next ((s.setFbd Fbd.reset).respond
      { statusOnly .ok with frameDone := some true, tgValid := some false }) := by
  rw [exec_fbdPush_of_completes h, doneResponse_of_discard hdiscard]

/-- `st'` and `len'` of R145, by the length with the byte: the second byte completes the length field. -/
theorem pushed_of_length_eq_two (f : Fbd) {buf : Bytes} (h : buf.length = 2) :
    pushedSt f buf = .awaitBody ∧ pushedLen f buf = be16 buf[0] buf[1] :=
  ⟨if_pos h, (if_pos h).trans (wordAt_eq_getElem buf 0 (by omega))⟩

theorem pushed_of_length_ne_two (f : Fbd) {buf : Bytes} (h : buf.length ≠ 2) :
    pushedSt f buf = f.st ∧ pushedLen f buf = f.len :=
  ⟨if_neg h, if_neg h⟩

/-- In a state R27 allows, the bytes that the detector completes are exactly one frame. -/
theorem isFrame_of_completes {f : Fbd} {d : Byte} (hinv : fbdInv f) (h : completes f (f.buf ++ [d])) :
    isFrame (f.buf ++ [d]) := by
  obtain ⟨hst, hlen⟩ := h
  obtain ⟨hawait, -⟩ | ⟨-, hdecl, hhead, -⟩ := pushed_cases hinv d
  · exact absurd (hst.symm.trans hawait) nofun
  · exact ⟨hhead, hdecl ▸ hlen⟩

/-! ## The laws of the stream (R147 to R149) -/

theorem telegramsOf_append (rs qs : List Response) : telegramsOf (rs ++ qs) = telegramsOf rs ++ telegramsOf qs :=
  List.filterMap_append

theorem feed_append (f : Fbd) (xs ys : Bytes) :
    feed f (xs ++ ys) = ((feed (feed f xs).1 ys).1, (feed f xs).2 ++ (feed (feed f xs).1 ys).2) := by
  rw [feed, feedResponses_append, telegramsOf_append]
  rfl

/-- The pushes of a chunk, at the head of the inbox, are answered with the responses of the chunk, in order. -/
theorem runSteps_feedRecords (chunk : Bytes) {s : State} {rest : List HostInput}
    (h : s.inbox = (feedRecords chunk).map .command ++ rest) :
    runSteps chunk.length s = .next {
      fbd := (feedResponses s.fbd chunk).1
      inbox := rest
      responses := s.responses ++ (feedResponses s.fbd chunk).2 } := by
  induction chunk generalizing s with
  | nil => exact runSteps_zero_of_inbox h
  | cons b bs ih =>
    have hstep := (step_of_command h).trans (runRecord_of_decode (decode_encode (.fbdPush b)) _)
    rw [List.length_cons, runSteps_succ_of_next _ _ _ (hstep.trans (exec_fbdPush b _)), ih rfl, feedResponses_cons,
      respond_responses, List.append_assoc]
    rfl

/-- A byte that completes no frame gives no telegram. -/
theorem telegramsOf_pending (n : Nat) : telegramsOf (List.replicate n pendingResponse) = [] :=
  List.filterMap_replicate_of_none rfl

/-- The responses to the bytes of a frame, pushed from reset (R149; `feedResponses_frame`). -/
def responsesToFrame (f : Bytes) : List Response :=
  List.replicate (f.length - 1) pendingResponse ++ [doneResponse (decodeFrame f)]

theorem feedResponses_frame {f : Bytes} (h : isFrame f) :
    feedResponses Fbd.reset f = (Fbd.reset, responsesToFrame f) :=
  feedResponses_of_isFrame h

theorem telegramsOf_responsesToFrame (f : Bytes) :
    telegramsOf (responsesToFrame f) = (decodedTelegram (decodeFrame f)).toList := by
  rw [responsesToFrame, telegramsOf_append, telegramsOf_pending]
  cases decodeFrame f <;> rfl

/-- From reset, frames back to back are completed one by one, and leave the detector reset. -/
theorem feedResponses_flatten {frames : List Bytes} (h : ∀ f ∈ frames, isFrame f) :
    feedResponses Fbd.reset frames.flatten = (Fbd.reset, frames.flatMap responsesToFrame) := by
  induction frames with
  | nil => rfl
  | cons f frames ih =>
    obtain ⟨hframe, hframes⟩ := List.forall_mem_cons.mp h
    rw [List.flatten_cons, feedResponses_append, feedResponses_frame hframe, ih hframes, List.flatMap_cons]

theorem telegramsOf_flatMap_responsesToFrame (frames : List Bytes) :
    telegramsOf (frames.flatMap responsesToFrame) = frames.filterMap fun f => decodedTelegram (decodeFrame f) := by
  simp only [telegramsOf, List.filterMap_flatMap, List.filterMap_eq_flatMap_toList _ frames]
  exact congrArg (List.flatMap · frames) (funext telegramsOf_responsesToFrame)

/-! ## The statements -/

/-- Settles O29: `isFrame_iff_getElem` decides between FRAME_DECODE's two answers, and the response follows the
outcome. -/
theorem frameDecodeAnswersOneFrame : Obligations.FrameDecodeAnswersOneFrame := by
  refine ⟨fun _ hop => decode_of_op (m := .frameDecode) hop, fun f s => ?_⟩
  rw [← isFrame_iff_getElem]
  refine ⟨fun hframe => ?_, fun hno => exec_frameDecode_of_not_isFrame hno s⟩
  rw [exec_frameDecode_of_isFrame hframe]
  refine ⟨fun t h => ?_, fun h => ?_, fun h => ?_⟩ <;> rw [h] <;> rfl

/-- Settles O30: one equation of `decodeFrame` for each condition. -/
theorem discardsInTheirOrder : Obligations.DiscardsInTheirOrder := by
  intro f _
  have hword (h : 3 < f.length) : wordAt f 2 = be16 f[2] f[3] := wordAt_eq_getElem f 2 h
  refine ⟨decodeFrame_of_length_lt_four, fun h htype => ?_, fun h htype hshort => ?_,
    fun h htype hlong => ⟨telegramOf f, ?_⟩⟩
  · exact decodeFrame_of_other_type h (hword h ▸ htype)
  · exact decodeFrame_of_short_group h ((hword h).trans htype) hshort
  · exact decodeFrame_of_long_group hlong ((hword h).trans htype)

/-- Settles O31: the packet is a group packet of at least 10 bytes, and each field of its telegram lies in one byte. -/
theorem groupPacketDecodesToItsTelegram : Obligations.GroupPacketDecodesToItsTelegram := by
  intro l1 l0 s1 s0 d1 d0 fl cmd data hframe
  constructor
  · have hvalue := telegramValue_append (head := [l1, l0, 0x00#8, 0x27#8, s1, s0, d1, d0, fl]) rfl cmd data
    have htype : wordAt ([l1, l0, 0x00#8, 0x27#8, s1, s0, d1, d0, fl, cmd] ++ data) 2 = be16 0x00#8 0x27#8 := rfl
    rw [decodeFrame_of_long_group (Nat.le_add_left 10 _) htype, telegramOf_of_words rfl rfl]
    exact congrArg (fun v => Decoded.emit { value := v, .. }) hvalue
  · have hlen : data.length + 10 = (be16 l1 l0).toNat + 2 := hframe.2
    have := (be16 l1 l0).isLt
    omega

/-- Settles O32: each test and each field reads other bytes. -/
theorem flagsByteIsNeverRead : Obligations.FlagsByteIsNeverRead := by
  intro f x
  rw [decodeFrame, List.length_set, wordAt_set_of_ne (by decide) (by decide), telegramOf_set_eight]
  rfl

/-- Settles O33: the given length and phase are `pushedLen` and `pushedSt`, and FBD_PUSH either completes or keeps. -/
theorem fbdPushAppendsOrCompletes : Obligations.FbdPushAppendsOrCompletes := by
  refine ⟨fun _ hop => decode_of_op (m := .fbdPush) hop, ?_⟩
  rintro s d _ len st rfl hpushed
  obtain ⟨rfl, rfl⟩ : pushedSt s.fbd (s.fbd.buf ++ [d]) = st ∧ pushedLen s.fbd (s.fbd.buf ++ [d]) = len := by
    obtain ⟨hne, rfl, rfl⟩ | ⟨htwo, rfl, rfl⟩ := hpushed
    · exact pushed_of_length_ne_two s.fbd hne
    · exact pushed_of_length_eq_two s.fbd htwo
  refine ⟨fun hdone => ⟨fun t ht => ?_, exec_fbdPush_of_discard hdone⟩, exec_fbdPush_of_not_completes⟩
  rw [exec_fbdPush_of_completes hdone, ht]
  rfl

/-- Settles O36, by `runSteps_feedRecords`. -/
theorem pushesOfAChunkAreItsFeed : Obligations.PushesOfAChunkAreItsFeed := fun chunk _ _ hinbox =>
  ⟨_, runSteps_feedRecords chunk hinbox, rfl⟩

/-- Settles O37, by induction on the chunks with `feed_append`. -/
theorem chunkingDoesNotMatter : Obligations.ChunkingDoesNotMatter := by
  intro f chunks
  induction chunks generalizing f with
  | nil => rfl
  | cons c cs ih => rw [feedChunks, List.flatten_cons, feed_append, ih]

/-- Settles O38: the frames by `feedResponses_flatten`, which leaves the detector reset, and from there the
last bytes by `feedResponses_of_isFramePrefix`. -/
theorem backToBackFramesAreDelimitedExactly : Obligations.BackToBackFramesAreDelimitedExactly := by
  intro frames p hframes hpending
  have hfeed := feedResponses_append Fbd.reset frames.flatten p
  rw [feedResponses_flatten hframes, feedResponses_of_isFramePrefix hpending] at hfeed
  refine ⟨hfeed, ?_⟩
  rw [feed, reset_fbd, hfeed, telegramsOf_append, telegramsOf_flatMap_responsesToFrame, telegramsOf_pending,
    List.append_nil]

/-- Settles O40, by `isFrame_of_completes`: both commands decode the same frame. -/
theorem detectorAndFrameDecodeAgree : Obligations.DetectorAndFrameDecodeAgree := fun _ t _ hinv hdone =>
  ⟨_, _, _, _, exec_fbdPush_of_completes hdone, rfl,
    exec_frameDecode_of_isFrame (isFrame_of_completes hinv hdone) t, rfl, rfl, rfl, rfl, rfl⟩

/-- Settles O34. -/
theorem fbdClearDropsThePartialFrame : Obligations.FbdClearDropsThePartialFrame :=
  ⟨fun _ hop => decode_of_op (m := .fbdClear) hop, exec_fbdClear⟩

/-- Settles O39, by `exec_fbdPush_of_discard`: neither outcome is a telegram. -/
theorem discardsAreNotSurfaced : Obligations.DiscardsAreNotSurfaced := by
  intro s d hdone hdiscard
  refine exec_fbdPush_of_discard hdone fun t ht => ?_
  obtain h | h := hdiscard <;> exact absurd (h.symm.trans ht) nofun

end Sys2Proof.Machine

namespace Sys2Proof.Machine

/-! # Errors and overlapping commands (spec/60_exceptions.md) -/

/-! ## When a step goes on (R174, R180, R200) -/

/-- Two commands at the same time, at the head of the inbox, stop the step with the fault of I3. -/
theorem step_of_overlap {s : State} {c₁ c₂ : CommandRecord} {rest : List HostInput}
    (h : s.inbox = .overlap c₁ c₂ :: rest) : step s = .fault .overlappingCommands := by
  simp only [step, h, takeOverlap]

/-- A step takes the oldest input, if there is one, and goes on, or that input is two commands at once. -/
theorem step_next_or_overlap (s : State) :
    (∃ s', step s = .next s' ∧ s'.inbox = s.inbox.tail) ∨
    (∃ c₁ c₂ rest, s.inbox = .overlap c₁ c₂ :: rest ∧ step s = .fault .overlappingCommands) := by
  obtain ⟨hinbox, hstep⟩ | ⟨c, rest, hinbox, hstep⟩ | ⟨cut, rest, hinbox, hstep⟩ | hoverlap := step_cases s
  · exact .inl ⟨s, hstep, by rw [hinbox, List.tail_nil]⟩
  · obtain ⟨f, r, hrun⟩ := runRecord_responds c s.fbd
    exact .inl ⟨_, hstep.trans (hrun (s.setInbox rest) rfl), by rw [hinbox]; rfl⟩
  · exact .inl ⟨_, hstep, by rw [hinbox]; rfl⟩
  · exact .inr hoverlap

/-- A host that keeps its duty in all its inputs keeps it in the inputs after the oldest. -/
theorem serialInputs_of_inbox_eq_tail {s s' : State} (h : serialInputs s) (htail : s'.inbox = s.inbox.tail) :
    serialInputs s' := fun x hx => h x (List.mem_of_mem_tail (htail ▸ hx))

theorem not_serialInputs_of_overlap {s : State} {c₁ c₂ : CommandRecord} {rest : List HostInput}
    (h : s.inbox = .overlap c₁ c₂ :: rest) : ¬ serialInputs s := fun hserial =>
  absurd (hserial (.overlap c₁ c₂) (h ▸ List.mem_cons_self)) nofun

/-- Settles O10, by `step_next_or_overlap`: only two commands at once keep a step from going on, and they are no serial
input. -/
theorem blockNeverStopsOnSerialInputs : Obligations.BlockNeverStopsOnSerialInputs := by
  intro s
  obtain ⟨s', hstep, htail⟩ | ⟨c₁, c₂, rest, hinbox, hstep⟩ := step_next_or_overlap s
  all_goals rw [hstep]
  · exact ⟨nofun, nofun, fun hserial => ⟨s', rfl, serialInputs_of_inbox_eq_tail hserial htail⟩⟩
  · refine ⟨nofun, fun x hx => ?_, fun hserial => absurd hserial (not_serialInputs_of_overlap hinbox)⟩
    exact ⟨(Host.Outcome.fault.inj hx).symm, c₁, c₂, rest, hinbox⟩

/-! ## What an error changes (R171) -/

/-- No command of the detector has ill-formed operands (R146, R150). -/
theorem RefusedWith.unitOf_ne_fbd {i : Instr} {e : Status} (h : RefusedWith i e) :
    unitOf (mnemonicOfInstr i) ≠ .fbd := by
  cases h <;> exact nofun

/-- Any status but OK is the error of operands that are ill-formed. -/
theorem refusedWith_of_status_ne_ok {i : Instr} {s s' : State} {r : Response} (h : exec i s = .next s')
    (hr : s'.responses = s.responses ++ [r]) (hne : r.status ≠ .ok) : RefusedWith i r.status := by
  obtain ⟨f, r', hexec, hstatus⟩ := exec_status i s
  obtain rfl : (s.setFbd f).respond r' = s' := Host.Outcome.next.inj (hexec.symm.trans h)
  obtain rfl : r' = r := by simpa using hr
  exact hstatus.resolve_left fun hok => hne hok.2

/-- Settles O43: by `response_form` the response is the status alone, and an error comes from a stateless unit, which
gives its response and changes nothing else. -/
theorem errorsChangeNothingAndDefineOnlyStatus : Obligations.ErrorsChangeNothingAndDefineOnlyStatus := by
  intro i s s' r h hr hne
  have hform : r = statusOnly r.status := by
    obtain hok | ⟨e, -, rfl⟩ := response_form h hr
    · exact absurd hok.status_eq_ok hne
    · rfl
  obtain ⟨r', hanswers⟩ := exec_of_unitOf_ne_fbd (refusedWith_of_status_ne_ok h hr hne).unitOf_ne_fbd
  obtain rfl : s.respond r' = s' := Host.Outcome.next.inj ((hanswers s).symm.trans h)
  obtain rfl : r' = r := by simpa using hr
  exact ⟨rfl, hform⟩

/-- Settles O9. -/
theorem overlappingCommandsFault : Obligations.OverlappingCommandsFault := fun _ _ _ _ => step_of_overlap

end Sys2Proof.Machine

namespace Sys2Proof.Machine

/-! # Waiting, reset and the longest partial frame -/

/-! ## A step with nothing issued, and a reset input (R190 to R192) -/

theorem step_of_empty {s : State} (h : s.inbox = []) : step s = .next s := by
  simp only [step, h, waitForCommand]

theorem step_of_reset {s : State} {cut : Option CommandRecord} {rest : List HostInput}
    (h : s.inbox = .reset cut :: rest) : step s = .next ((s.setInbox rest).setFbd Fbd.reset) := by
  simp only [step, h, takeReset]

/-- A step on FBD_CLEAR at the head of the inbox leaves what a reset there would leave, and one response more. -/
theorem step_of_fbdClear {s : State} {rest : List HostInput} (h : s.inbox = .command (encode .fbdClear) :: rest) :
    step s = .next (((s.setInbox rest).setFbd Fbd.reset).respond (statusOnly .ok)) := by
  rw [step_of_command h, runRecord_of_decode (decode_encode .fbdClear), exec_fbdClear]

/-- Settles O6. -/
theorem stepWaitsWhenNothingIsIssued : Obligations.StepWaitsWhenNothingIsIssued := fun _ => step_of_empty

/-- Settles O7: the reset step writes the inbox and the detector alone. -/
theorem resetInputRestoresTheDetector : Obligations.ResetInputRestoresTheDetector := fun _ _ _ => step_of_reset

/-- Settles O35, by `step_of_reset` and `step_of_fbdClear`, whose states differ by the response alone. -/
theorem resetAndClearLeaveTheSameState : Obligations.ResetAndClearLeaveTheSameState := fun _ _ _ =>
  ⟨_, _, step_of_reset rfl, step_of_fbdClear rfl, rfl, rfl, rfl, rfl, rfl⟩

/-! ## The longest partial frame (R197)

After `FF FF` the bytes are the beginning of a frame while the body is under 65535 bytes, and a frame at exactly that
many. -/

theorem declaredLen_longestPrefix (body : Bytes) : declaredLen ([0xFF#8, 0xFF#8] ++ body) = 0xFFFF#16 :=
  (declaredLen_append [0xFF#8, 0xFF#8] body le_rfl).trans (by decide)

theorem isFramePrefix_longestPrefix {body : Bytes} (h : body.length < 65535) :
    isFramePrefix ([0xFF#8, 0xFF#8] ++ body) := by
  rw [isFramePrefix, declaredLen_longestPrefix, List.length_append, Nat.add_comm]
  exact .inr (Nat.add_lt_add_right h 2)

theorem isFrame_longestPrefix {body : Bytes} (h : body.length = 65535) : isFrame ([0xFF#8, 0xFF#8] ++ body) := by
  rw [isFrame, declaredLen_longestPrefix, List.length_append, Nat.add_comm, h]
  decide

/-- Holding `FF FF` and any bytes after it, the detector awaits the longest body. -/
theorem fbdHolding_longestPrefix (body : Bytes) :
    fbdHolding ([0xFF#8, 0xFF#8] ++ body) =
      { st := .awaitBody, buf := [0xFF#8, 0xFF#8] ++ body, len := 0xFFFF#16 } := by
  rw [fbdHolding_of_ge (Nat.le_add_left 2 _), declaredLen_longestPrefix]

/-- Settles O41: a shorter body leaves the beginning of a frame, which is held, and a body of 65535 bytes makes a frame,
which is completed at its last byte. -/
theorem longestPrefixHoldsTheDetector : Obligations.LongestPrefixHoldsTheDetector := by
  refine ⟨fun body hshort => ?_, fun body hfull => ?_⟩
  · rw [reset_fbd, feedResponses_of_isFramePrefix (isFramePrefix_longestPrefix hshort), fbdHolding_longestPrefix]
    rfl
  · rw [reset_fbd, feedResponses_of_isFrame (isFrame_longestPrefix hfull)]
    exact ⟨rfl, List.getLast?_concat⟩

end Sys2Proof.Machine
